-- ==== Sys2Proof/Word.lean ====
section
/-! DEFINITION. The words of telem_radio CORE: the 32-bit command word (spec R91), bytes, the 10-bit
words of a frame (R103), and the number type of samples, coefficients and levels (R12). -/

namespace Sys2Proof

/-- A command word: `op[31:24] u[23:20] imm[19:0]` (R91). -/
abbrev Word := BitVec 32

/-- A payload or parity byte (R165). -/
abbrev Byte := BitVec 8

/-- A 10-bit word of a frame (R9, R103). -/
abbrev Word10 := BitVec 10

/-- A sample, coefficient, level or phase (R12). Values are carried as exact rationals; the rounding
of `CFG.NUM` is applied by the operations of `Machine/Numbers.lean`. -/
abbrev Num := Rat

/-- A duration in seconds: exact, never rounded (R252). -/
abbrev Duration := Rat

end Sys2Proof
end

