-- ==== Sys2Proof/Syntax.lean ====
section
/-! DEFINITION. The 30 operations of spec R96 (spec/opcode_table.json), one constructor each, with
register numbers and instance codes as names. -/

namespace Sys2Proof

/-- The FIR instances of R25 and R101: `u` = 0 DEC, 1 INT, 2 BIT. -/
inductive FirInst where
  | dec
  | int
  | bit
  deriving DecidableEq, Repr

/-- `OSC.NEXT.sel` (R124): 0 the sine table, 1 the cosine table. -/
inductive TableSel where
  | sine
  | cosine
  deriving DecidableEq, Repr

/-- `norm` of the generators (R100): 0 SUM, 1 L2. -/
inductive Norm where
  | sum
  | l2
  deriving DecidableEq, Repr

/-- IIR coefficient ids (R101): `cid` 0 to 9. -/
inductive IirCoef where
  | a0
  | a1
  | a2
  | b0
  | b1
  | b2
  | a3
  | a4
  | b3
  | b4
  deriving DecidableEq, Repr

/-- The registers of the parameter store (R40), 0 to 18 and the read-only 32 to 39. -/
inductive ParReg where
  | hpfEn
  | bitLpfEn
  | telemEn
  | highSpeedEn
  | testPatternEn
  | testToneEn
  | testToneFreq
  | toneMeasEn
  | sampleRate
  | bps
  | decimationRate
  | rampEn
  | rampAmt
  | oneValue
  | zeroValue
  | periodLen
  | toneKind
  | toneLevel
  | xrunCount
  | samplesPerBit
  | readyIndex
  | peak
  | ltMax
  | ltMin
  | ltTotal
  | ltCount
  | curMode
  deriving DecidableEq, Repr

/-- The operations (R96). -/
inductive Instr where
  | nop
  | oscInit
  | oscNext (sel : TableSel)
  | firReset (f : FirInst)
  | firStep (f : FirInst)
  | firLoadc (f : FirInst) (index : BitVec 20)
  | firGenrc (f : FirInst) (norm : Norm)
  | firGenrrc (f : FirInst) (norm : Norm)
  | iirReset
  | iirStep
  | iirLoadc (sec : BitVec 4) (cid : IirCoef)
  | iirSetn (n : BitVec 20)
  | rsClear
  | rsUpdate (d : Byte)
  | rsRead (index : BitVec 5)
  | encReset
  | encByte (d : Byte)
  | encSync
  | frameEncode
  | frameFill
  | frameRdy
  | frameReq
  | frameNextbit
  | framePoll
  | modInit
  | modBit
  | procPeriod (frameCount : BitVec 20)
  | parGet (reg : ParReg)
  | parSet (reg : ParReg)
  | faultGet
  deriving DecidableEq, Repr

end Sys2Proof
end

