-- ==== Sys2Proof/Decode.lean ====
section
/-! DEFINITION. Decoding a command word (spec R91, R92, R96, R100, R101) and its inverse, `encode`.
Decoding is total: a word is one operation or is rejected under the name of the condition of R104 it
meets. The conditions of R104 that depend on the configuration, the port, the DIN frame or the state
are `Instr.wellFormed` and `Machine.legal`. -/

namespace Sys2Proof

/-- Why a word is no operation, whatever the port and the state (R104). -/
inductive DecodeError where
  /-- `op` is not in rule R96. -/
  | reservedOpcode (op : BitVec 8)
  /-- `u` is not 0 for a non-FIR operation. -/
  | unitNotZero
  /-- `u > 2` for a FIR operation. -/
  | reservedInstance
  /-- A bit of `imm` outside the slices of R100 is 1. -/
  | immBitsSet
  /-- `cid > 9`. -/
  | reservedCoef
  /-- `reg` is 19..31 or 40..255. -/
  | reservedParam
  deriving DecidableEq, Repr

/-- Field `op` (R91). -/
def opOf (w : Word) : BitVec 8 := w.extractLsb' 24 8

/-- Field `u` (R91). -/
def unitOf (w : Word) : BitVec 4 := w.extractLsb' 20 4

/-- Field `imm` (R91). -/
def immOf (w : Word) : BitVec 20 := w.extractLsb' 0 20

/-- The bits of `imm` from bit `k` up are 0 (R100, R104). -/
def immFits (k : Nat) (w : Word) : Bool := decide ((immOf w).toNat < 2 ^ k)

/-- An operation other than `FIR.*` whose immediate slice has `k` bits; `k = 0` is format Z. -/
def plainOp (k : Nat) (w : Word) (mk : BitVec 20 → Except DecodeError Instr) :
    Except DecodeError Instr :=
  if unitOf w ≠ 0 then .error .unitNotZero
  else if immFits k w then mk (immOf w)
  else .error .immBitsSet

/-- FIR instance codes (R101). -/
def firInstOf (u : BitVec 4) : Option FirInst :=
  match u.toNat with
  | 0 => some .dec
  | 1 => some .int
  | 2 => some .bit
  | _ => none

/-- A `FIR.*` operation whose immediate slice has `k` bits. -/
def firOp (k : Nat) (w : Word) (mk : FirInst → BitVec 20 → Instr) : Except DecodeError Instr :=
  match firInstOf (unitOf w) with
  | none => .error .reservedInstance
  | some f => if immFits k w then .ok (mk f (immOf w)) else .error .immBitsSet

/-- `OSC.NEXT.sel = imm[0]` (R124). -/
def tableSelOf (imm : BitVec 20) : TableSel := if imm.getLsbD 0 then .cosine else .sine

/-- `norm = imm[0]`: 0 SUM, 1 L2 (R100). -/
def normOf (imm : BitVec 20) : Norm := if imm.getLsbD 0 then .l2 else .sum

/-- IIR coefficient ids (R101). -/
def iirCoefOf (cid : BitVec 4) : Option IirCoef :=
  match cid.toNat with
  | 0 => some .a0
  | 1 => some .a1
  | 2 => some .a2
  | 3 => some .b0
  | 4 => some .b1
  | 5 => some .b2
  | 6 => some .a3
  | 7 => some .a4
  | 8 => some .b3
  | 9 => some .b4
  | _ => none

/-- Parameter register numbers (R40). -/
def parRegOf (reg : BitVec 8) : Option ParReg :=
  match reg.toNat with
  | 0 => some .hpfEn
  | 1 => some .bitLpfEn
  | 2 => some .telemEn
  | 3 => some .highSpeedEn
  | 4 => some .testPatternEn
  | 5 => some .testToneEn
  | 6 => some .testToneFreq
  | 7 => some .toneMeasEn
  | 8 => some .sampleRate
  | 9 => some .bps
  | 10 => some .decimationRate
  | 11 => some .rampEn
  | 12 => some .rampAmt
  | 13 => some .oneValue
  | 14 => some .zeroValue
  | 15 => some .periodLen
  | 16 => some .toneKind
  | 17 => some .toneLevel
  | 18 => some .xrunCount
  | 32 => some .samplesPerBit
  | 33 => some .readyIndex
  | 34 => some .peak
  | 35 => some .ltMax
  | 36 => some .ltMin
  | 37 => some .ltTotal
  | 38 => some .ltCount
  | 39 => some .curMode
  | _ => none

/-- A `PAR.*` operation on the register `imm[7:0]` names, if it is not reserved (R263). -/
def parOp (mk : ParReg → Instr) (imm : BitVec 20) : Except DecodeError Instr :=
  match parRegOf (imm.extractLsb' 0 8) with
  | none => .error .reservedParam
  | some r => .ok (mk r)

/-- `IIR.LOADC`: `sec = imm[7:4]`, `cid = imm[3:0]` (R100). -/
def iirLoadcOp (imm : BitVec 20) : Except DecodeError Instr :=
  match iirCoefOf (imm.extractLsb' 0 4) with
  | none => .error .reservedCoef
  | some c => .ok (.iirLoadc (imm.extractLsb' 4 4) c)

/-- Decode a command word by the opcode map (R92, R96). -/
def decode (w : Word) : Except DecodeError Instr :=
  match (opOf w).toNat with
  | 0x00 => plainOp 0 w fun _ => .ok .nop
  | 0x08 => plainOp 0 w fun _ => .ok .oscInit
  | 0x09 => plainOp 1 w fun imm => .ok (.oscNext (tableSelOf imm))
  | 0x10 => firOp 0 w fun f _ => .firReset f
  | 0x11 => firOp 0 w fun f _ => .firStep f
  | 0x12 => firOp 20 w fun f imm => .firLoadc f imm
  | 0x13 => firOp 1 w fun f imm => .firGenrc f (normOf imm)
  | 0x14 => firOp 1 w fun f imm => .firGenrrc f (normOf imm)
  | 0x20 => plainOp 0 w fun _ => .ok .iirReset
  | 0x21 => plainOp 0 w fun _ => .ok .iirStep
  | 0x22 => plainOp 8 w iirLoadcOp
  | 0x23 => plainOp 20 w fun imm => .ok (.iirSetn imm)
  | 0x30 => plainOp 0 w fun _ => .ok .rsClear
  | 0x31 => plainOp 8 w fun imm => .ok (.rsUpdate (imm.extractLsb' 0 8))
  | 0x32 => plainOp 5 w fun imm => .ok (.rsRead (imm.extractLsb' 0 5))
  | 0x40 => plainOp 0 w fun _ => .ok .encReset
  | 0x41 => plainOp 8 w fun imm => .ok (.encByte (imm.extractLsb' 0 8))
  | 0x42 => plainOp 0 w fun _ => .ok .encSync
  | 0x50 => plainOp 0 w fun _ => .ok .frameEncode
  | 0x51 => plainOp 0 w fun _ => .ok .frameFill
  | 0x52 => plainOp 0 w fun _ => .ok .frameRdy
  | 0x53 => plainOp 0 w fun _ => .ok .frameReq
  | 0x54 => plainOp 0 w fun _ => .ok .frameNextbit
  | 0x55 => plainOp 0 w fun _ => .ok .framePoll
  | 0x60 => plainOp 0 w fun _ => .ok .modInit
  | 0x61 => plainOp 0 w fun _ => .ok .modBit
  | 0x70 => plainOp 20 w fun imm => .ok (.procPeriod imm)
  | 0x80 => plainOp 8 w (parOp .parGet)
  | 0x81 => plainOp 8 w (parOp .parSet)
  | 0x82 => plainOp 0 w fun _ => .ok .faultGet
  | _ => .error (.reservedOpcode (opOf w))

/-! ## The encoder -/

/-- Assemble a command word from its three fields (R91). -/
def mkWord (op : BitVec 8) (u : BitVec 4) (imm : BitVec 20) : Word := op ++ u ++ imm

/-- FIR instance codes (R101). -/
def FirInst.code : FirInst → BitVec 4
  | .dec => 0
  | .int => 1
  | .bit => 2

/-- `sel` (R124). -/
def TableSel.code : TableSel → BitVec 20
  | .sine => 0
  | .cosine => 1

/-- `norm` (R100). -/
def Norm.code : Norm → BitVec 20
  | .sum => 0
  | .l2 => 1

/-- `cid` (R101). -/
def IirCoef.code : IirCoef → BitVec 4
  | .a0 => 0
  | .a1 => 1
  | .a2 => 2
  | .b0 => 3
  | .b1 => 4
  | .b2 => 5
  | .a3 => 6
  | .a4 => 7
  | .b3 => 8
  | .b4 => 9

/-- Register numbers of the parameter store (R40). -/
def ParReg.code : ParReg → BitVec 8
  | .hpfEn => 0
  | .bitLpfEn => 1
  | .telemEn => 2
  | .highSpeedEn => 3
  | .testPatternEn => 4
  | .testToneEn => 5
  | .testToneFreq => 6
  | .toneMeasEn => 7
  | .sampleRate => 8
  | .bps => 9
  | .decimationRate => 10
  | .rampEn => 11
  | .rampAmt => 12
  | .oneValue => 13
  | .zeroValue => 14
  | .periodLen => 15
  | .toneKind => 16
  | .toneLevel => 17
  | .xrunCount => 18
  | .samplesPerBit => 32
  | .readyIndex => 33
  | .peak => 34
  | .ltMax => 35
  | .ltMin => 36
  | .ltTotal => 37
  | .ltCount => 38
  | .curMode => 39

/-- The command word of an instruction (R96, R100). -/
def encode : Instr → Word
  | .nop => mkWord 0x00 0 0
  | .oscInit => mkWord 0x08 0 0
  | .oscNext sel => mkWord 0x09 0 sel.code
  | .firReset f => mkWord 0x10 f.code 0
  | .firStep f => mkWord 0x11 f.code 0
  | .firLoadc f index => mkWord 0x12 f.code index
  | .firGenrc f norm => mkWord 0x13 f.code norm.code
  | .firGenrrc f norm => mkWord 0x14 f.code norm.code
  | .iirReset => mkWord 0x20 0 0
  | .iirStep => mkWord 0x21 0 0
  | .iirLoadc sec cid => mkWord 0x22 0 ((0 : BitVec 12) ++ sec ++ cid.code)
  | .iirSetn n => mkWord 0x23 0 n
  | .rsClear => mkWord 0x30 0 0
  | .rsUpdate d => mkWord 0x31 0 ((0 : BitVec 12) ++ d)
  | .rsRead index => mkWord 0x32 0 ((0 : BitVec 15) ++ index)
  | .encReset => mkWord 0x40 0 0
  | .encByte d => mkWord 0x41 0 ((0 : BitVec 12) ++ d)
  | .encSync => mkWord 0x42 0 0
  | .frameEncode => mkWord 0x50 0 0
  | .frameFill => mkWord 0x51 0 0
  | .frameRdy => mkWord 0x52 0 0
  | .frameReq => mkWord 0x53 0 0
  | .frameNextbit => mkWord 0x54 0 0
  | .framePoll => mkWord 0x55 0 0
  | .modInit => mkWord 0x60 0 0
  | .modBit => mkWord 0x61 0 0
  | .procPeriod frameCount => mkWord 0x70 0 frameCount
  | .parGet reg => mkWord 0x80 0 ((0 : BitVec 12) ++ reg.code)
  | .parSet reg => mkWord 0x81 0 ((0 : BitVec 12) ++ reg.code)
  | .faultGet => mkWord 0x82 0 0

/-- The instruction the decoder reads from the bits `w` of an instruction of `nbits` bits (bit 0 the
least significant of its one 32-bit word, R91); the bits above `nbits` are 0. -/
def decodeTableWord (nbits w : Nat) : Option Instr :=
  match decode (BitVec.ofNat 32 (w % 2 ^ nbits)) with
  | .ok i => some i
  | .error _ => none

end Sys2Proof
end

