-- ==== Sys2Proof/Config.lean ====
section
/-! DEFINITION. The configuration `CFG` of spec R6: what is fixed when the block is built. A state
carries its configuration as plain data (no operation changes it), so a statement about every state is
a statement about every configuration. What the spec leaves open and no plain data can hold (the
rounding of `CFG.NUM`, `sin`, `cos`, `sqrt`, `π`, a quotient by zero) is an opaque constant. -/

namespace Sys2Proof

/-- The number type `CFG.NUM` (R12, decision D4). `exact` is the legal instance "rationals, `rnd` the
identity"; `rounded k` is any other number type, whose rounding is the opaque `Config.rnd k`. NaN and
infinities are excluded, as U11 allows. -/
inductive NumFormat where
  | exact
  | rounded (k : Nat)
  deriving DecidableEq, Repr

/-- The configuration `CFG` (R6). -/
structure Config where
  /-- `NUM`, OPEN in the spec. -/
  num : NumFormat
  /-- `L_DEC`, taps of the decimation filter. -/
  lDec : Nat
  /-- `L_INT`, taps of the interpolation filter. -/
  lInt : Nat
  /-- `L_BIT`, taps of the pulse-shaping filter, OPEN in the spec. -/
  lBit : Nat
  /-- `COEF_DEC`: build-time coefficient contents; a cell the list does not reach is unwritten. -/
  coefDec : List Num
  /-- `COEF_INT`. -/
  coefInt : List Num
  /-- `COEF_BIT`. -/
  coefBit : List Num
  /-- `IIR_MAX_SECTIONS`. -/
  iirMaxSections : Nat
  /-- `IIR_LIMIT`. -/
  iirLimit : Num
  /-- `CLIP_LIMIT`. -/
  clipLimit : Num
  /-- `TABLE_LEN`, OPEN in the spec. -/
  tableLen : Nat
  /-- `SIN_TAB` (R121). -/
  sinTab : List Num
  /-- `COS_TAB` (R121). -/
  cosTab : List Num
  /-- `DATA_LEN`. -/
  dataLen : Nat
  /-- `PARITY_LEN`. -/
  parityLen : Nat
  /-- `RS_CODE`, the field polynomial (R166 (a)). -/
  rsField : BitVec 9
  /-- `RS_CODE`, the generator polynomial `G[0..PARITY_LEN]` (R166 (b)). -/
  rsGen : List Byte
  /-- `MEAS_WINDOW`. -/
  measWindow : Nat
  /-- `LT_WINDOW`. -/
  ltWindow : Nat
  deriving DecidableEq, Repr

/-- `FRAME_LEN = DATA_LEN + PARITY_LEN + 1` (R6, R200). -/
def Config.frameLen (c : Config) : Nat := c.dataLen + c.parityLen + 1

/-- FREE VALUE (log entry 2). The rounding of a number type other than `exact`, `rnd : ℝ → Num` of R12
on the values that arise: sums, differences, products and quotients of rationals. -/
opaque Config.rnd (k : Nat) (x : Rat) : Num

/-- `rnd(0)`. -/
def NumFormat.zero : NumFormat → Num
  | .exact => 0
  | .rounded k => Config.rnd k 0

/-- The named properties of the oscillator tables (R121): lengths, first entries, magnitudes, and for a
`TABLE_LEN` that is a multiple of 4 the quarter and half points of the sine and the cosine as the sine a
quarter ahead. `SIN_TAB[TABLE_LEN/2]` is 0 up to `rnd`: the rounding of 0 (log entry 18). -/
def Config.tablesOk (c : Config) : Bool :=
  decide (c.sinTab.length = c.tableLen) && decide (c.cosTab.length = c.tableLen)
    && decide (c.sinTab[0]? = some 0) && decide (c.cosTab[0]? = some 1)
    && c.sinTab.all (fun x => decide (-1 ≤ x) && decide (x ≤ 1))
    && c.cosTab.all (fun x => decide (-1 ≤ x) && decide (x ≤ 1))
    && (decide (c.tableLen % 4 ≠ 0)
      || (decide (c.sinTab[c.tableLen / 4]? = some 1)
        && decide (c.sinTab[c.tableLen / 2]? = some c.num.zero)
        && (List.range c.tableLen).all fun i =>
          decide (c.cosTab[i]? = c.sinTab[(i + c.tableLen / 4) % c.tableLen]?)))

/-- What R6 and R121 require of a configuration. -/
def Config.wf (c : Config) : Bool :=
  decide (1 ≤ c.lDec) && decide (1 ≤ c.lInt) && decide (1 ≤ c.lBit)
    && decide (1 ≤ c.iirMaxSections) && decide (c.iirMaxSections ≤ 16)
    && decide (1 ≤ c.tableLen)
    && c.tablesOk
    && decide (1 ≤ c.dataLen) && decide (1 ≤ c.parityLen) && decide (c.parityLen ≤ 32)
    && decide (c.rsGen.length = c.parityLen + 1)
    && decide (1 ≤ c.measWindow) && decide (1 ≤ c.ltWindow)

/-- The generator polynomial of the default `RS_CODE`, coefficients `G[0..32]` (R166 (b)). -/
def Config.ccsdsGen : List Byte :=
  [0x01, 0x5b, 0x7f, 0x56, 0x10, 0x1e, 0x0d, 0xeb, 0x61, 0xa5, 0x08, 0x2a, 0x36, 0x56, 0xab, 0x20,
   0x71,
   0x20, 0xab, 0x56, 0x36, 0x2a, 0x08, 0xa5, 0x61, 0xeb, 0x0d, 0x1e, 0x10, 0x56, 0x7f, 0x5b, 0x01]

/-- The configuration `State.reset` is built with: every value R6 gives, and for its OPEN entries one
legal instance (DESIGN CHOICE, log entry 1): `NUM = exact`, `L_BIT = 48`, no build-time coefficients,
`TABLE_LEN = 4` (whose tables are exact rationals). No statement rests on these: `State.resetOf` takes
any configuration. -/
def Config.standard : Config where
  num := .exact
  lDec := 480
  lInt := 480
  lBit := 48
  coefDec := []
  coefInt := []
  coefBit := []
  iirMaxSections := 8
  iirLimit := 100000000000000000000
  clipLimit := 1
  tableLen := 4
  sinTab := [0, 1, 0, -1]
  cosTab := [1, 0, -1, 0]
  dataLen := 64
  parityLen := 32
  rsField := 0x187
  rsGen := Config.ccsdsGen
  measWindow := 500
  ltWindow := 400

/-- FREE VALUE (log entry 3). `rnd (sin x)`, for `x ≥ 0` under `exact` and for every `x` otherwise;
`numSin` keeps it within the bounds of a sine. -/
opaque Config.sinRaw (f : NumFormat) (x : Num) : Num

/-- FREE VALUE (log entry 3). `rnd (cos x)`, likewise; `numCos` keeps it within the bounds of a cosine. -/
opaque Config.cosRaw (f : NumFormat) (x : Num) : Num

/-- FREE VALUE (log entry 3). `rnd (sqrt x)`; `numSqrt` keeps the root of a positive number positive. -/
opaque Config.sqrtRaw (f : NumFormat) (x : Num) : Num

/-- FREE VALUE (log entry 3). `rnd π`; `numPi` keeps it between 3 and 4. -/
opaque Config.piRaw (f : NumFormat) : Num

/-- FREE VALUE (log entry 17). The coefficients a generator draws for the un-normalised array `t`, where
rational numbers cannot hold the normalised formula (R136); `tapDraw` keeps R138's properties. -/
opaque Config.coefDraw (norm : Norm) (t : List Num) : List Num

/-- FREE VALUE (log entry 4). The quotient of `a` by a divisor that a rounding number type turned into
0, for which the spec states no result. -/
opaque Config.divByZero (f : NumFormat) (a : Num) : Num

end Sys2Proof
end

