-- ==== Sys2Proof/WellFormed.lean ====
section
/-! DEFINITION. The field constraints of spec R104 that the types of `Syntax.lean` do not already
exclude: bounds that depend on the configuration, a section count of 0, and writes of read-only
registers (R263). -/

namespace Sys2Proof

/-- The length `L[f]` of a FIR instance (R25). -/
def Config.firLen (c : Config) : FirInst → Nat
  | .dec => c.lDec
  | .int => c.lInt
  | .bit => c.lBit

/-- Access column of R40: `PAR.SET` of a read-only register is illegal (R263). -/
def ParReg.readOnly : ParReg → Bool
  | .samplesPerBit | .readyIndex | .peak | .ltMax | .ltMin | .ltTotal | .ltCount | .curMode => true
  | .hpfEn | .bitLpfEn | .telemEn | .highSpeedEn | .testPatternEn | .testToneEn | .testToneFreq
  | .toneMeasEn | .sampleRate | .bps | .decimationRate | .rampEn | .rampAmt | .oneValue | .zeroValue
  | .periodLen | .toneKind | .toneLevel | .xrunCount => false

/-- The operand fields of an instruction are legal under a configuration (R104). -/
def Instr.wellFormed (c : Config) : Instr → Bool
  | .firLoadc f index => decide (index.toNat < c.firLen f)
  | .iirLoadc sec _ => decide (sec.toNat < c.iirMaxSections)
  | .iirSetn n => decide (n.toNat ≠ 0) && decide (n.toNat ≤ c.iirMaxSections)
  | .rsRead index => decide (index.toNat < c.parityLen)
  | .parSet reg => !reg.readOnly
  | .nop | .oscInit | .oscNext _ | .firReset _ | .firStep _ | .firGenrc _ _ | .firGenrrc _ _
  | .iirReset | .iirStep | .rsClear | .rsUpdate _ | .encReset | .encByte _ | .encSync
  | .frameEncode | .frameFill | .frameRdy | .frameReq | .frameNextbit | .framePoll
  | .modInit | .modBit | .procPeriod _ | .parGet _ | .faultGet => true

end Sys2Proof
end

