-- ==== Sys2Proof/Machine/State.lean ====
section
/-! DEFINITION. The state of telem_radio CORE (spec 10_state.md), plain data, grouped by unit; its
reset value (R58, R310); the reasons a step can stop. Registers keep the spec's names in lower case. -/

namespace Sys2Proof.Machine

/-! ## Named values -/

/-- The two command ports (R90). -/
inductive Port where
  | cmd
  | fill
  deriving DecidableEq, Repr

/-- One entry of the environment's schedule: which agent moves at an interleaving point (R69, U19), or
that the reset input comes (R310). -/
inductive Turn where
  | cmd
  | fill
  | reset
  deriving DecidableEq, Repr

/-- The two frame buffers `BUF[0]`, `BUF[1]` (R34). -/
inductive Slot where
  | zero
  | one
  deriving DecidableEq, Repr

/-- Running disparity (R33): `neg` is 0, `pos` is 1. -/
inductive Disparity where
  | neg
  | pos
  deriving DecidableEq, Repr

/-- `FILL_STATE` (R35). -/
inductive FillState where
  | idle
  | requested
  | filling
  deriving DecidableEq, Repr

/-- `MOD_STATE` (R38). -/
inductive ModState where
  | starting
  | withinBit
  deriving DecidableEq, Repr

/-- The four modes of the period processor (R39, R237). -/
inductive Mode where
  | tone
  | measure
  | hs
  | duv
  deriving DecidableEq, Repr

/-- `TONE_KIND` (R40): 0 analog, 1 digital. -/
inductive ToneKind where
  | analog
  | digital
  deriving DecidableEq, Repr

/-- An item of `DIN` or `DOUT` (R22, R102). `noDuration` is the value `NONE` of `LT_MIN` (R39). -/
inductive Item where
  | num (q : Num)
  | byte (b : Byte)
  | word10 (w : Word10)
  | bit (b : Bool)
  | int (n : Nat)
  | duration (d : Duration)
  | noDuration
  deriving DecidableEq, Repr

/-- A command transaction: the command word and its DIN frame (R102). -/
structure Txn where
  word : Word
  frame : List Item
  deriving DecidableEq, Repr

/-- An event of `EVT`: the eight codes of R277, each with its `info`. -/
inductive Event where
  /-- Code 1, info 0 (R278). -/
  | iirOvf
  /-- Code 2, info the index of the sample in the period (R279). -/
  | clip (index : Nat)
  /-- Code 3, info `FILL_STATE` at the boundary (R280). -/
  | refillLate (fs : FillState)
  /-- Code 4, info `LT_MAX` (R284). -/
  | deadlineWarn (d : Duration)
  /-- Code 5, info `PEAK` (R285). -/
  | peakReport (q : Num)
  /-- Code 6, info `frameCount` (R286). -/
  | periodMismatch (frameCount : Nat)
  /-- Code 7, info the command word (R282). -/
  | cmdIllegal (word : Word)
  /-- Code 8, info a code of R283. -/
  | cfgInvalid (info : Nat)
  deriving DecidableEq, Repr

/-! ## Register groups -/

/-- One port: the transactions delivered and not begun (the model's own, log entry 7), `DIN`, `DOUT`. -/
structure PortIO where
  inbox : List Txn
  din : List Item
  dout : List Item
  deriving DecidableEq, Repr

/-- `EVT`, `FAULT`, `HALTED` (R42). -/
structure FaultRegs where
  evt : List Event
  fault : BitVec 8
  halted : Bool
  deriving DecidableEq, Repr

/-- `OSC_PHASE`, `OSC_INC` (R24). -/
structure OscRegs where
  phase : Num
  inc : Num
  deriving DecidableEq, Repr

/-- `COEF[f]`, `HIST[f]` of one FIR instance (R26, R27); `none` is an unwritten cell (R21). -/
structure FirRegs where
  coef : List (Option Num)
  hist : List Num
  deriving DecidableEq, Repr

/-- A coefficient record `IIR_C[k]` (R29). -/
structure IirCoefs where
  a0 : Option Num
  a1 : Option Num
  a2 : Option Num
  b0 : Option Num
  b1 : Option Num
  b2 : Option Num
  a3 : Num
  a4 : Num
  b3 : Num
  b4 : Num
  deriving DecidableEq, Repr

/-- `IIR_X1[k], IIR_X2[k], IIR_Y1[k], IIR_Y2[k]` (R30). -/
structure IirSection where
  x1 : Num
  x2 : Num
  y1 : Num
  y2 : Num
  deriving DecidableEq, Repr

/-- The IIR instance (R28 to R31). -/
structure IirRegs where
  nsec : Option Nat
  coefs : List IirCoefs
  regs : List IirSection
  maxReg : Num
  ovfLogged : Bool
  deriving DecidableEq, Repr

/-- `PARITY`, `RD` (R32, R33). -/
structure EncRegs where
  parity : List Byte
  rd : Disparity
  deriving DecidableEq, Repr

/-- `BUF`, `READY_INDEX`, `FILL_STATE`, `ACTIVE_INDEX` (R34, R35). -/
structure HandRegs where
  buf0 : List Word10
  buf1 : List Word10
  ready : Slot
  fillState : FillState
  active : Slot
  deriving DecidableEq, Repr

/-- The bit iterator (R37). -/
structure IterRegs where
  firstPacket : Bool
  bitsSent : Nat
  wordsSent : Nat
  deriving DecidableEq, Repr

/-- The modulator (R38). -/
structure ModRegs where
  state : ModState
  currentBit : Bool
  samplesSent : Nat
  onesRun : Nat
  zerosRun : Nat
  samplesPerBit : Option Nat
  deriving DecidableEq, Repr

/-- A mode key (R39). -/
structure ModeKey where
  mode : Mode
  sampleRate : Nat
  decimationRate : Nat
  bps : Option Nat
  hpfEn : Bool
  bitLpfEn : Bool
  telemEn : Bool
  testPatternEn : Bool
  deriving DecidableEq, Repr

/-- The period processor (R39). `CUR_KEY` holds a value exactly when `KEY_VALID` is 1. -/
structure ProcRegs where
  curKey : Option ModeKey
  clipLogged : Bool
  peak : Num
  measCount : Nat
  ltMax : Duration
  ltMin : Option Duration
  ltTotal : Duration
  ltCount : Nat
  deriving DecidableEq, Repr

/-- `KEY_VALID` (R39). -/
def ProcRegs.keyValid (p : ProcRegs) : Bool := p.curKey.isSome

/-- The RW registers of the parameter store (R40); `none` is unwritten (R21). -/
structure ParRegs where
  hpfEn : Bool
  bitLpfEn : Bool
  telemEn : Bool
  highSpeedEn : Bool
  testPatternEn : Bool
  testToneEn : Bool
  testToneFreq : Option Num
  toneMeasEn : Bool
  sampleRate : Nat
  bps : Option Nat
  decimationRate : Nat
  rampEn : Bool
  rampAmt : Option Num
  oneValue : Option Num
  zeroValue : Option Num
  periodLen : Nat
  toneKind : ToneKind
  toneLevel : Num
  xrunCount : Nat
  deriving DecidableEq, Repr

/-- A `FRAME.FILL` between two of its steps (R69 (b), R205): after the claim, or after the write, of
the slot named. The model's own field (log entry 8). -/
inductive FillJob where
  | claimed (slot : Slot)
  | written (slot : Slot)
  deriving DecidableEq, Repr

/-! ## The state -/

/-- The whole state: the configuration, the ports and the environment's schedule, and the registers of
each unit (INVENTORY.md, State). -/
structure State where
  /-- `CFG` (R6): never written. -/
  cfg : Config
  /-- The CMD port (R90). -/
  cmd : PortIO
  /-- The FILL port (R90). -/
  fill : PortIO
  /-- The environment's schedule (R69, U19). -/
  turns : List Turn
  /-- The port the current command arrived on. -/
  port : Port
  /-- A `FRAME.FILL` in progress. -/
  fillJob : Option FillJob
  /-- R42. -/
  flt : FaultRegs
  /-- R24. -/
  osc : OscRegs
  /-- Instance DEC (R25). -/
  firDec : FirRegs
  /-- Instance INT. -/
  firInt : FirRegs
  /-- Instance BIT. -/
  firBit : FirRegs
  /-- R28 to R31. -/
  iir : IirRegs
  /-- R32, R33. -/
  enc : EncRegs
  /-- R34, R35. -/
  hand : HandRegs
  /-- R37. -/
  iter : IterRegs
  /-- R38. -/
  modu : ModRegs
  /-- R39. -/
  proc : ProcRegs
  /-- R40. -/
  par : ParRegs
  deriving DecidableEq, Repr

/-- The reasons a step can stop with a fault. There is none: the spec turns every abnormal condition
into an event and a next state (R275, R289), and names no stuck state (R70). -/
inductive Fault
  deriving DecidableEq, Repr

/-- The reasons a step can refuse. -/
inductive Refusal where
  /-- Raised by an arm of `exec` whose instruction has no meaning; no arm does. Safe. -/
  | notModelled (mnemonic : String)
  deriving DecidableEq, Repr

/-! ## Reset -/

/-- An idle port (R22). -/
def PortIO.empty : PortIO := { inbox := [], din := [], dout := [] }

/-- One FIR instance after reset: configured or unwritten coefficients, zero history (R26, R27). -/
def FirRegs.reset (len : Nat) (contents : List Num) : FirRegs where
  coef := (List.range len).map fun i => contents[i]?
  hist := List.replicate len 0

/-- A coefficient record after reset (R29). -/
def IirCoefs.reset : IirCoefs :=
  { a0 := none, a1 := none, a2 := none, b0 := none, b1 := none, b2 := none,
    a3 := 0, a4 := 0, b3 := 0, b4 := 0 }

/-- A section's registers after reset (R30). -/
def IirSection.zero : IirSection := { x1 := 0, x2 := 0, y1 := 0, y2 := 0 }

/-- The parameter store after reset (R40, R41). -/
def ParRegs.reset : ParRegs :=
  { hpfEn := false, bitLpfEn := false, telemEn := false, highSpeedEn := false,
    testPatternEn := false, testToneEn := false, testToneFreq := none, toneMeasEn := false,
    sampleRate := 48000, bps := none, decimationRate := 4, rampEn := false, rampAmt := none,
    oneValue := none, zeroValue := none, periodLen := 480, toneKind := .analog, toneLevel := 1,
    xrunCount := 0 }

/-- The state after reset of a block built with configuration `c` (R58, R310), nothing delivered. -/
def State.resetOf (c : Config) : State where
  cfg := c
  cmd := .empty
  fill := .empty
  turns := []
  port := .cmd
  fillJob := none
  flt := { evt := [], fault := 0, halted := false }
  osc := { phase := 0, inc := 0 }
  firDec := FirRegs.reset c.lDec c.coefDec
  firInt := FirRegs.reset c.lInt c.coefInt
  firBit := FirRegs.reset c.lBit c.coefBit
  iir := { nsec := none, coefs := List.replicate c.iirMaxSections .reset,
           regs := List.replicate c.iirMaxSections .zero, maxReg := 0, ovfLogged := false }
  enc := { parity := List.replicate c.parityLen 0, rd := .neg }
  hand := { buf0 := List.replicate c.frameLen 0, buf1 := List.replicate c.frameLen 0,
            ready := .zero, fillState := .requested, active := .zero }
  iter := { firstPacket := true, bitsSent := 0, wordsSent := 0 }
  modu := { state := .starting, currentBit := false, samplesSent := 0, onesRun := 0, zerosRun := 0,
            samplesPerBit := none }
  proc := { curKey := none, clipLogged := false, peak := 0, measCount := 0, ltMax := 0,
            ltMin := none, ltTotal := 0, ltCount := 0 }
  par := .reset

/-- The machine right after reset (R58), of the block `Config.standard` describes. -/
def State.reset : State := State.resetOf Config.standard

/-! ## Updates, one per register group -/

namespace State

/-- Replace the CMD port. -/
def setCmd (s : State) (x : PortIO) : State := { s with cmd := x }
/-- Replace the FILL port. -/
def setFill (s : State) (x : PortIO) : State := { s with fill := x }
/-- Replace the schedule. -/
def setTurns (s : State) (x : List Turn) : State := { s with turns := x }
/-- Replace the port of the current command. -/
def setPort (s : State) (x : Port) : State := { s with port := x }
/-- Replace the `FRAME.FILL` in progress. -/
def setFillJob (s : State) (x : Option FillJob) : State := { s with fillJob := x }
/-- Replace `EVT`, `FAULT`, `HALTED`. -/
def setFlt (s : State) (x : FaultRegs) : State := { s with flt := x }
/-- Replace the oscillator registers. -/
def setOsc (s : State) (x : OscRegs) : State := { s with osc := x }
/-- Replace FIR instance DEC. -/
def setFirDec (s : State) (x : FirRegs) : State := { s with firDec := x }
/-- Replace FIR instance INT. -/
def setFirInt (s : State) (x : FirRegs) : State := { s with firInt := x }
/-- Replace FIR instance BIT. -/
def setFirBit (s : State) (x : FirRegs) : State := { s with firBit := x }
/-- Replace the IIR instance. -/
def setIir (s : State) (x : IirRegs) : State := { s with iir := x }
/-- Replace `PARITY`, `RD`. -/
def setEnc (s : State) (x : EncRegs) : State := { s with enc := x }
/-- Replace the handoff registers and buffers. -/
def setHand (s : State) (x : HandRegs) : State := { s with hand := x }
/-- Replace the bit iterator. -/
def setIter (s : State) (x : IterRegs) : State := { s with iter := x }
/-- Replace the modulator registers. -/
def setModu (s : State) (x : ModRegs) : State := { s with modu := x }
/-- Replace the period processor's registers. -/
def setProc (s : State) (x : ProcRegs) : State := { s with proc := x }
/-- Replace the parameter store. -/
def setPar (s : State) (x : ParRegs) : State := { s with par := x }

end State

end Sys2Proof.Machine
end

