-- ==== Sys2Proof/Machine/Flags.lean ====
section
/-! DEFINITION. The flags of spec R43 and the event mechanism that sets the sticky ones: event codes
(R277), `FAULT` bits and `emit` (R276), `HALTED` (R42, R286), the "fill requested" flag (R35). The
flags `CLIP_LOGGED`, `IIR_OVF_LOGGED`, `FIRST_PACKET` are set where their rules set them
(`Period.lean`, `Iir.lean`, `Frame.lean`). -/

namespace Sys2Proof.Machine

/-- The event code (R277). -/
def Event.code : Event → Nat
  | .iirOvf => 1
  | .clip _ => 2
  | .refillLate _ => 3
  | .deadlineWarn _ => 4
  | .peakReport _ => 5
  | .periodMismatch _ => 6
  | .cmdIllegal _ => 7
  | .cfgInvalid _ => 8

/-- The number of a `FILL_STATE` (R35), the `info` of `REFILL_LATE`. -/
def FillState.code : FillState → Nat
  | .idle => 0
  | .requested => 1
  | .filling => 2

/-- The `FAULT` bit of an event: bit `code - 1` (R42, R276). -/
def Event.faultBit (e : Event) : BitVec 8 := (1 : BitVec 8) <<< (e.code - 1)

/-- `emit EVT(code, info)` on the fault registers (R276). -/
def FaultRegs.emit (x : FaultRegs) (e : Event) : FaultRegs :=
  { x with evt := x.evt ++ [e], fault := x.fault ||| e.faultBit }

/-- `emit EVT(code, info)` (R276). -/
def State.emit (s : State) (e : Event) : State := s.setFlt (s.flt.emit e)

/-- `HALTED <- 1` (R286). -/
def State.halt (s : State) : State := s.setFlt { s.flt with halted := true }

/-- The source's "fill requested" flag: `FILL_STATE = REQUESTED` (R35, R43). -/
def State.fillRequested (s : State) : Bool := decide (s.hand.fillState = .requested)

end Sys2Proof.Machine
end

