-- ==== Sys2Proof/Machine/Numbers.lean ====
section
/-! DEFINITION. The arithmetic of `CFG.NUM` (spec R12): each `+`, `-`, `*`, `/` is computed exactly
and rounded once; `abs` and comparisons are exact. An integer that meets a number is converted exactly
(R17). `sin`, `cos`, `sqrt` and `π` are the uninterpreted functions of `Config` (R136, log entry 3). -/

namespace Sys2Proof.Machine

/-- `rnd` (R12). -/
def rnd (f : NumFormat) (x : Rat) : Num :=
  match f with
  | .exact => x
  | .rounded k => Config.rnd k x

/-- A value of `CFG.NUM`: one that its rounding leaves alone (R102, log entry 14). -/
def isNum (f : NumFormat) (x : Rat) : Bool :=
  match f with
  | .exact => true
  | .rounded k => decide (Config.rnd k x = x)

/-- `a + b`. -/
def numAdd (f : NumFormat) (a b : Num) : Num := rnd f (a + b)

/-- `a - b`. -/
def numSub (f : NumFormat) (a b : Num) : Num := rnd f (a - b)

/-- `a * b`. -/
def numMul (f : NumFormat) (a b : Num) : Num := rnd f (a * b)

/-- `a / b`. The spec's divisors are non-zero in ℝ; one that a rounding has turned into 0 gives a free
value (log entry 4). -/
def numDiv (f : NumFormat) (a b : Num) : Num :=
  if b = 0 then Config.divByZero f a else rnd f (a / b)

/-- `abs(a)`, exact (R12). -/
def numAbs (a : Num) : Num := if a < 0 then -a else a

/-- `max(a, b)`, exact (R12). -/
def numMax (a b : Num) : Num := if a < b then b else a

/-- `π`, kept within the bound 3 to 4 that every rounding of it meets (log entry 3). -/
def numPi (f : NumFormat) : Num :=
  if 3 ≤ Config.piRaw f ∧ Config.piRaw f ≤ 4 then Config.piRaw f else 3

/-- `v` brought into the interval from `-b` to `b`. -/
def clampTo (b v : Num) : Num := if v < -b then -b else if b < v then b else v

/-- `sin(x)`. Where no rounding acts it is odd and at most 1 and `abs x` in magnitude (log entry 3). -/
def numSin (f : NumFormat) (x : Num) : Num :=
  match f with
  | .exact =>
    if x < 0 then -(clampTo (min 1 (-x)) (Config.sinRaw f (-x)))
    else clampTo (min 1 x) (Config.sinRaw f x)
  | .rounded _ => Config.sinRaw f x

/-- `cos(x)`. Where no rounding acts it is even, 1 at 0, and with `u = 2x/π` at most 1 and `abs(1 - u²)`
in magnitude (log entry 3). -/
def numCos (f : NumFormat) (x : Num) : Num :=
  match f with
  | .exact =>
    if x = 0 then 1
    else
      let u := 2 * x / numPi f
      clampTo (min 1 (numAbs (1 - u * u))) (Config.cosRaw f (numAbs x))
  | .rounded _ => Config.cosRaw f x

/-- `sqrt(x)`. The root of 0 is 0, of a positive number positive; where no rounding acts, a rational
root is the root (log entry 3). -/
def numSqrt (f : NumFormat) (x : Num) : Num :=
  if x = 0 then 0
  else if f = .exact ∧ Rat.sqrt x * Rat.sqrt x = x then Rat.sqrt x
  else if 0 < Config.sqrtRaw f x then Config.sqrtRaw f x
  else 1

/-- `Σ_i t[i]`, in ascending `i` from 0 (R137). -/
def numSum (f : NumFormat) (t : List Num) : Num := t.foldl (numAdd f) 0

/-- `Σ_i t[i]²`, in ascending `i` from 0 (R137). -/
def numSumSq (f : NumFormat) (t : List Num) : Num :=
  t.foldl (fun acc x => numAdd f acc (numMul f x x)) 0

/-- `acc + Σ_i c[i]·h[i]` in ascending `i`: one rounding per product and per sum (R133). -/
def numDot (f : NumFormat) : Num → List Num → List Num → Num
  | acc, c :: cs, h :: hs => numDot f (numAdd f acc (numMul f c h)) cs hs
  | acc, [], _ => acc
  | acc, _ :: _, [] => acc

end Sys2Proof.Machine
end

