-- ==== Sys2Proof/Machine/Operands.lean ====
section
/-! DEFINITION. Operand forms: the item types of a DIN frame (spec R102), the DIN column of R96 for
every operation, and how an operand is taken from the frame. Immediates are assembled by the decoder
(R100). -/

namespace Sys2Proof.Machine

/-- The item types that a row of R96 asks for. -/
inductive ItemKind where
  | num
  | byte
  | int
  | duration
  deriving DecidableEq, Repr

/-- An item has a type (R102): a `Num` is a value of `CFG.NUM`, an `int` is below 2³², a `duration` is
not negative. -/
def Item.hasKind (f : NumFormat) : ItemKind → Item → Bool
  | .num, .num q => isNum f q
  | .byte, .byte _ => true
  | .int, .int n => decide (n < 2 ^ 32)
  | .duration, .duration d => decide (0 ≤ d)
  | .num, _ | .byte, _ | .int, _ | .duration, _ => false

/-- The type of a register of the parameter store (R40); a bool travels as an int 0 or 1 (R102). -/
def parKind : ParReg → ItemKind
  | .testToneFreq | .rampAmt | .oneValue | .zeroValue | .toneLevel | .peak => .num
  | .ltMax | .ltMin | .ltTotal => .duration
  | .hpfEn | .bitLpfEn | .telemEn | .highSpeedEn | .testPatternEn | .testToneEn | .toneMeasEn
  | .sampleRate | .bps | .decimationRate | .rampEn | .periodLen | .toneKind | .xrunCount
  | .samplesPerBit | .readyIndex | .ltCount | .curMode => .int

/-- The DIN column of R96: the types of the items an operation pops, in order. -/
def rowDin (c : Config) : Instr → List ItemKind
  | .firStep _ | .firLoadc _ _ | .iirStep | .iirLoadc _ _ => [.num]
  | .firGenrc _ _ | .firGenrrc _ _ => [.num, .num, .num]
  | .frameEncode | .frameFill => List.replicate c.dataLen .byte
  | .modInit => [.int, .int]
  | .procPeriod n => List.replicate n.toNat .num ++ [.duration]
  | .parSet r => [parKind r]
  | .nop | .oscInit | .oscNext _ | .firReset _ | .iirReset | .iirSetn _ | .rsClear | .rsUpdate _
  | .rsRead _ | .encReset | .encByte _ | .encSync | .frameRdy | .frameReq | .frameNextbit
  | .framePoll | .modBit | .parGet _ | .faultGet => []

/-- A frame holds exactly the items of a row, in number and in type (R102). -/
def kindsMatch (f : NumFormat) : List ItemKind → List Item → Bool
  | [], [] => true
  | k :: ks, x :: xs => x.hasKind f k && kindsMatch f ks xs
  | [], _ :: _ => false
  | _ :: _, [] => false

/-- The number of a `Num` item. -/
def Item.numVal : Item → Num
  | .num q => q
  | .byte _ | .word10 _ | .bit _ | .int _ | .duration _ | .noDuration => 0

/-- The byte of a byte item. -/
def Item.byteVal : Item → Byte
  | .byte b => b
  | .num _ | .word10 _ | .bit _ | .int _ | .duration _ | .noDuration => 0

/-- The integer of an int item. -/
def Item.intVal : Item → Nat
  | .int n => n
  | .num _ | .byte _ | .word10 _ | .bit _ | .duration _ | .noDuration => 0

/-- The duration of a duration item. -/
def Item.durationVal : Item → Duration
  | .duration d => d
  | .num _ | .byte _ | .word10 _ | .bit _ | .int _ | .noDuration => 0

/-- The operand `DIN.pop()` gives at position `k` of the frame. -/
def operand (items : List Item) (k : Nat) : Item := items.getD k .noDuration

/-- An operand of zeros of a type (used to deliver a command word alone, log entry 11). -/
def ItemKind.zero : ItemKind → Item
  | .num => .num 0
  | .byte => .byte 0
  | .int => .int 0
  | .duration => .duration 0

end Sys2Proof.Machine
end

