-- ==== Sys2Proof/Machine/Ops.lean ====
section
/-! DEFINITION. The operations the meanings share: reaching a port, a FIR instance or a frame slot;
pushing results; refusing a command and the fatal event (spec R13, R282, R283, R286); the legality
test of R104; accepting a command. -/

namespace Sys2Proof.Machine

/-! ## Ports -/

/-- A port's queues (R90). -/
def State.io (s : State) : Port → PortIO
  | .cmd => s.cmd
  | .fill => s.fill

/-- Replace a port's queues. -/
def State.setIo (s : State) (p : Port) (x : PortIO) : State :=
  match p with
  | .cmd => s.setCmd x
  | .fill => s.setFill x

/-- `DOUT.push(v)` (R13). -/
def State.push (s : State) (p : Port) (v : Item) : State :=
  s.setIo p { s.io p with dout := (s.io p).dout ++ [v] }

/-- `DOUT.push` of several items in order. -/
def State.pushAll (s : State) (p : Port) (vs : List Item) : State :=
  s.setIo p { s.io p with dout := (s.io p).dout ++ vs }

/-- The current command's DIN frame is gone: popped or discarded (R102). -/
def State.clearDin (s : State) (p : Port) : State := s.setIo p { s.io p with din := [] }

/-- A command transaction reaches its port: its frame is the port's `DIN` (R22, R102). -/
def State.deliver (s : State) (p : Port) (t : Txn) (rest : List Txn) : State :=
  (s.setIo p { s.io p with inbox := rest, din := t.frame }).setPort p

/-! ## Arrays -/

/-- A FIR instance (R25). -/
def State.fir (s : State) : FirInst → FirRegs
  | .dec => s.firDec
  | .int => s.firInt
  | .bit => s.firBit

/-- Replace a FIR instance. -/
def State.setFir (s : State) (f : FirInst) (x : FirRegs) : State :=
  match f with
  | .dec => s.setFirDec x
  | .int => s.setFirInt x
  | .bit => s.setFirBit x

/-- The other frame buffer, `1 - slot` (R205). -/
def Slot.other : Slot → Slot
  | .zero => .one
  | .one => .zero

/-- The index bit of a slot. -/
def Slot.toBit : Slot → Bool
  | .zero => false
  | .one => true

/-- `BUF[slot]` (R34). -/
def HandRegs.buf (h : HandRegs) : Slot → List Word10
  | .zero => h.buf0
  | .one => h.buf1

/-- Replace `BUF[slot]`. -/
def HandRegs.setBuf (h : HandRegs) (sl : Slot) (ws : List Word10) : HandRegs :=
  match sl with
  | .zero => { h with buf0 := ws }
  | .one => { h with buf1 := ws }

/-! ## Refusals and the fatal event: what an event-raising command leaves -/

/-- `refuse`: emit the event, discard the frame, change nothing else (R13, R282, R283). -/
def refuse (p : Port) (e : Event) (s : State) : State := (s.emit e).clearDin p

/-- `raise PERIOD_MISMATCH(frameCount)`: the fatal event; the frame is discarded (R286). -/
def raisePeriodMismatch (p : Port) (frameCount : Nat) (s : State) : State :=
  ((s.emit (.periodMismatch frameCount)).halt).clearDin p

/-! ## Legality (R104) -/

/-- The port column of R96. -/
def portAllows : Port → Instr → Bool
  | _, .nop | _, .frameRdy | _, .faultGet => true
  | p, .rsClear | p, .rsUpdate _ | p, .rsRead _ | p, .encReset | p, .encByte _ | p, .encSync
  | p, .frameEncode | p, .frameFill | p, .framePoll => decide (p = .fill)
  | p, .oscInit | p, .oscNext _ | p, .firReset _ | p, .firStep _ | p, .firLoadc _ _
  | p, .firGenrc _ _ | p, .firGenrrc _ _ | p, .iirReset | p, .iirStep | p, .iirLoadc _ _
  | p, .iirSetn _ | p, .frameReq | p, .frameNextbit | p, .modInit | p, .modBit | p, .procPeriod _
  | p, .parGet _ | p, .parSet _ => decide (p = .cmd)

/-- The commands the halted state accepts (R42, R281). -/
def haltAllows : Instr → Bool
  | .nop | .parGet _ | .faultGet => true
  | .oscInit | .oscNext _ | .firReset _ | .firStep _ | .firLoadc _ _ | .firGenrc _ _
  | .firGenrrc _ _ | .iirReset | .iirStep | .iirLoadc _ _ | .iirSetn _ | .rsClear | .rsUpdate _
  | .rsRead _ | .encReset | .encByte _ | .encSync | .frameEncode | .frameFill | .frameRdy
  | .frameReq | .frameNextbit | .framePoll | .modInit | .modBit | .procPeriod _ | .parSet _ => false

/-- `FRAME.FILL` needs `FILL_STATE = REQUESTED` (R104, R205). -/
def fillAllows (s : State) : Instr → Bool
  | .frameFill => s.fillRequested
  | .nop | .oscInit | .oscNext _ | .firReset _ | .firStep _ | .firLoadc _ _ | .firGenrc _ _
  | .firGenrrc _ _ | .iirReset | .iirStep | .iirLoadc _ _ | .iirSetn _ | .rsClear | .rsUpdate _
  | .rsRead _ | .encReset | .encByte _ | .encSync | .frameEncode | .frameRdy | .frameReq
  | .frameNextbit | .framePoll | .modInit | .modBit | .procPeriod _ | .parGet _ | .parSet _
  | .faultGet => true

/-- A decoded command is legal: none of the conditions of R104 holds. -/
def legal (p : Port) (i : Instr) (s : State) : Bool :=
  i.wellFormed s.cfg && portAllows p i && (!s.flt.halted || haltAllows i) && fillAllows s i
    && kindsMatch s.cfg.num (rowDin s.cfg i) (s.io p).din

/-- Run a command if it is legal, else refuse it with `CMD_ILLEGAL(word)` (R104, R282). -/
def guarded (p : Port) (i : Instr) (s : State) (body : State → State) : State :=
  if legal p i s then body s else refuse p (.cmdIllegal (encode i)) s

/-- Run a legal command on the operands of its frame, which it pops (R102). -/
def accept (p : Port) (i : Instr) (s : State) (body : List Item → State → State) : State :=
  guarded p i s fun s => body (s.io p).din (s.clearDin p)

/-! ## Loops -/

/-- Run `f` once for each item in order, with the index from `k` up, collecting what it returns. -/
def runList {α : Type} (f : Nat → α → State → Num × State) :
    Nat → List α → State → List Num × State
  | _, [], s => ([], s)
  | k, x :: xs, s =>
    let (y, s₁) := f k x s
    let (ys, s₂) := runList f (k + 1) xs s₁
    (y :: ys, s₂)

end Sys2Proof.Machine
end

