-- ==== Sys2Proof/Machine/Fir.lean ====
section
/-! DEFINITION. FIR engine: FIR.RESET, FIR.STEP, FIR.LOADC (spec 41_fir.md section 2). -/

namespace Sys2Proof.Machine

/-- The number of a FIR instance (R25), added to `0x100` in `CFG_INVALID` (R283). -/
def firNumber : FirInst → Nat
  | .dec => 0
  | .int => 1
  | .bit => 2

/-- Every cell of `COEF[f]` is written (R131). -/
def FirRegs.written (x : FirRegs) : Bool := x.coef.all Option.isSome

/-- The values of `COEF[f]`. -/
def FirRegs.values (x : FirRegs) : List Num := x.coef.map fun c => c.getD 0

/-- `HIST[f]` all zero (R132). -/
def FirRegs.zeroed (x : FirRegs) : FirRegs := { x with hist := List.replicate x.hist.length 0 }

/-- The history advanced by one sample: the oldest dropped, the newest appended (R27, R133). -/
def firShift (hist : List Num) (x : Num) : List Num := hist.drop 1 ++ [x]

/-- `fir_step` on an instance: the filtered sample and the instance after it (R133). -/
def FirRegs.step (f : NumFormat) (r : FirRegs) (x : Num) : Num × FirRegs :=
  let h := firShift r.hist x
  (numDot f 0 r.values h, { r with hist := h })

/-- `fir_step(f, x)` (R133). -/
def firStep (f : FirInst) (x : Num) (s : State) : Num × State :=
  let (y, r) := (s.fir f).step s.cfg.num x
  (y, s.setFir f r)

/-- `HIST[f]` zeroed (R132). -/
def firClear (f : FirInst) (s : State) : State := s.setFir f (s.fir f).zeroed

/-- `FIR.RESET f` on a port (R132). -/
def firResetOn (p : Port) (f : FirInst) (s : State) : State :=
  accept p (.firReset f) s fun _ s => firClear f s

/-- `FIR.STEP f` on a port (R133). -/
def firStepOn (p : Port) (f : FirInst) (s : State) : State :=
  accept p (.firStep f) s fun items s =>
    if (s.fir f).written then
      let (y, s) := firStep f (operand items 0).numVal s
      s.push p (.num y)
    else refuse p (.cfgInvalid (0x100 + firNumber f)) s

/-- `FIR.LOADC f, index` on a port (R135). -/
def firLoadcOn (p : Port) (f : FirInst) (index : BitVec 20) (s : State) : State :=
  accept p (.firLoadc f index) s fun items s =>
    s.setFir f { s.fir f with
      coef := (s.fir f).coef.set index.toNat (some (operand items 0).numVal) }

/-- `FIR.RESET` (R132). -/
def execFirReset (f : FirInst) (s : State) : Host.Outcome State Fault Refusal :=
  .next (firResetOn s.port f s)

/-- `FIR.STEP` (R133). -/
def execFirStep (f : FirInst) (s : State) : Host.Outcome State Fault Refusal :=
  .next (firStepOn s.port f s)

/-- `FIR.LOADC` (R135). -/
def execFirLoadc (f : FirInst) (index : BitVec 20) (s : State) :
    Host.Outcome State Fault Refusal :=
  .next (firLoadcOn s.port f index s)

end Sys2Proof.Machine
end

