-- ==== Sys2Proof/Machine/FirGen.lean ====
section
/-! DEFINITION. FIR coefficient generators: FIR.GENRC, FIR.GENRRC (spec 41_fir.md section 3). Each
operation of a formula is one operation of `Numbers.lean`, in the order the spec writes it (R12); the
tests for singular points are exact equalities in ℝ (R137, R139; log entry 5). -/

namespace Sys2Proof.Machine

/-- The time of tap `i` of `len`, in samples: `i - (len - 1) div 2` (R136). -/
def tapTime (len i : Nat) : Int := (i : Int) - (((len - 1) / 2 : Nat) : Int)

/-- `2π·Fc·n` (R137). -/
def rcAngle (f : NumFormat) (fc : Num) (n : Int) : Num :=
  numMul f (numMul f (numMul f 2 (numPi f)) fc) (n : Rat)

/-- Tap `n` of the raised-cosine formula, `Fc` the cut-off in cycles per sample (R137). -/
def rcTap (f : NumFormat) (fc alpha : Num) (n : Int) : Num :=
  if n = 0 then numMul f (numMul f 2 (numPi f)) fc
  else if 0 < alpha ∧ 2 * alpha * fc * numAbs (n : Rat) = 1 then
    numDiv f (numMul f (numDiv f (numPi f) 4) (numSin f (rcAngle f fc n))) (n : Rat)
  else
    let u := numMul f (numMul f (numMul f 2 alpha) fc) (n : Rat)
    numDiv f
      (numMul f (numDiv f (numSin f (rcAngle f fc n)) (n : Rat))
        (numCos f (numMul f (numMul f (numMul f alpha (numPi f)) fc) (n : Rat))))
      (numSub f 1 (numMul f u u))

/-- The value of the root-raised-cosine formula at its singular points (R139). -/
def rrcSingular (f : NumFormat) (alpha : Num) : Num :=
  let angle := numDiv f (numPi f) (numMul f 4 alpha)
  numMul f (numDiv f alpha (numSqrt f 2))
    (numAdd f
      (numMul f (numAdd f 1 (numDiv f 2 (numPi f))) (numSin f angle))
      (numMul f (numSub f 1 (numDiv f 2 (numPi f))) (numCos f angle)))

/-- Tap `n` of the root-raised-cosine formula, `ts` the samples per symbol (R139). -/
def rrcTap (f : NumFormat) (ts alpha : Num) (n : Int) : Num :=
  let x := numDiv f (n : Rat) ts
  if n = 0 then numAdd f (numSub f 1 alpha) (numDiv f (numMul f 4 alpha) (numPi f))
  else if 0 < alpha ∧ 4 * alpha * numAbs x = 1 then rrcSingular f alpha
  else
    let px := numMul f (numPi f) x
    let v := numMul f (numMul f 4 alpha) x
    numDiv f
      (numAdd f (numSin f (numMul f px (numSub f 1 alpha)))
        (numMul f v (numCos f (numMul f px (numAdd f 1 alpha)))))
      (numMul f px (numSub f 1 (numMul f v v)))

/-- The un-normalised array `t[0..L-1]` of a tap formula (R136). -/
def tapArray (len : Nat) (tap : Int → Num) : List Num :=
  (List.range len).map fun i => tap (tapTime len i)

/-- The gain `g` of a normalisation (R137, R140). -/
def tapGain (f : NumFormat) (norm : Norm) (t : List Num) : Num :=
  match norm with
  | .sum => numSum f t
  | .l2 => numSqrt f (numSumSq f t)

/-- The quotients `t[L-1-i] / g` (R136), time-reversed. -/
def tapQuotients (f : NumFormat) (norm : Norm) (t : List Num) : List Num :=
  t.reverse.map fun v => numDiv f v (tapGain f norm t)

/-- The centre index `c = L-1-(L-1) div 2` in `COEF` (R138). -/
def tapCentre (len : Nat) : Nat := len - 1 - (len - 1) / 2

/-- The properties of R138 (and of R139, which refers to it): no entry above the centre one in
magnitude; symmetry about the centre index; the unit sum of the normalisation. -/
def tapProperties (norm : Norm) (cs : List Num) : Bool :=
  let c := tapCentre cs.length
  (cs.all fun x => decide (numAbs x ≤ numAbs (cs.getD c 0)))
    && ((List.range cs.length).all fun k =>
      decide (c < k) || decide (cs.length ≤ c + k) || decide (cs.getD (c + k) 0 = cs.getD (c - k) 0))
    && match norm with
      | .sum => decide (cs.sum = 1)
      | .l2 => decide ((cs.map fun x => x * x).sum = 1)

/-- The unit impulse at the centre index. -/
def tapImpulse (len : Nat) : List Num :=
  (List.range len).map fun i => if i = tapCentre len then 1 else 0

/-- The coefficients drawn from the configuration (R136), which have the properties of R138 (log entry
17). -/
def tapDraw (norm : Norm) (t : List Num) : List Num :=
  if (Config.coefDraw norm t).length = t.length ∧ tapProperties norm (Config.coefDraw norm t) = true then
    Config.coefDraw norm t
  else tapImpulse t.length

/-- The coefficients a generator stores: the quotients of the formula. Where no rounding acts and the
quotients fail a property of R138 (a sum of squares without a rational root), they are drawn (R136, log
entry 17). -/
def tapCoefs (f : NumFormat) (norm : Norm) (t : List Num) : List Num :=
  if f = .exact ∧ tapProperties norm (tapQuotients f norm t) = false then tapDraw norm t
  else tapQuotients f norm t

/-- The arguments are in the generators' domain (R137, R139). -/
def genArgsOk (rate freq alpha : Num) : Bool :=
  decide (0 < rate) && decide (0 < freq) && decide (0 ≤ alpha) && decide (alpha ≤ 1)

/-- What both generators do with their un-normalised array: refuse a zero gain, else fill `COEF[f]`
(R136, R137, R139). -/
def genStore (p : Port) (f : FirInst) (norm : Norm) (t : List Num) (s : State) : State :=
  if tapGain s.cfg.num norm t = 0 then refuse p (.cfgInvalid 0x132) s
  else s.setFir f { s.fir f with coef := (tapCoefs s.cfg.num norm t).map some }

/-- The array of `FIR.GENRC` (R137). -/
def rcArray (c : Config) (f : FirInst) (fs fc alpha : Num) : List Num :=
  tapArray (c.firLen f) (rcTap c.num (numDiv c.num fc fs) alpha)

/-- The array of `FIR.GENRRC` (R139). -/
def rrcArray (c : Config) (f : FirInst) (fs rs alpha : Num) : List Num :=
  tapArray (c.firLen f) (rrcTap c.num (numDiv c.num fs rs) alpha)

/-- `FIR.GENRC f, norm <- Fs, fc, alpha` on a port (R137). -/
def firGenrcOn (p : Port) (f : FirInst) (norm : Norm) (s : State) : State :=
  accept p (.firGenrc f norm) s fun items s =>
    let fs := (operand items 0).numVal
    let fc := (operand items 1).numVal
    let alpha := (operand items 2).numVal
    if genArgsOk fs fc alpha then genStore p f norm (rcArray s.cfg f fs fc alpha) s
    else refuse p (.cfgInvalid 0x132) s

/-- `FIR.GENRRC f, norm <- Fs, Rs, alpha` on a port (R139). -/
def firGenrrcOn (p : Port) (f : FirInst) (norm : Norm) (s : State) : State :=
  accept p (.firGenrrc f norm) s fun items s =>
    let fs := (operand items 0).numVal
    let rs := (operand items 1).numVal
    let alpha := (operand items 2).numVal
    if genArgsOk fs rs alpha then genStore p f norm (rrcArray s.cfg f fs rs alpha) s
    else refuse p (.cfgInvalid 0x132) s

/-- `FIR.GENRC` (R137). -/
def execFirGenrc (f : FirInst) (norm : Norm) (s : State) : Host.Outcome State Fault Refusal :=
  .next (firGenrcOn s.port f norm s)

/-- `FIR.GENRRC` (R139). -/
def execFirGenrrc (f : FirInst) (norm : Norm) (s : State) : Host.Outcome State Fault Refusal :=
  .next (firGenrrcOn s.port f norm s)

end Sys2Proof.Machine
end

