-- ==== Sys2Proof/Machine/Iir.lean ====
section
/-! DEFINITION. IIR engine: IIR.RESET, IIR.STEP, IIR.LOADC, IIR.SETN (spec 42_iir.md). -/

namespace Sys2Proof.Machine

/-- `a0..a2`, `b0..b2` of a record are written (R153). -/
def IirCoefs.written (c : IirCoefs) : Bool :=
  c.a0.isSome && c.a1.isSome && c.a2.isSome && c.b0.isSome && c.b1.isSome && c.b2.isSome

/-- The coefficient records of the sections below `IIR_NSEC`. -/
def IirRegs.active (r : IirRegs) : List IirCoefs := r.coefs.take (r.nsec.getD 0)

/-- Why `IIR.STEP` would refuse: `0x110` something unwritten, `0x111` some `a0 ≠ 1` (R153, R283). -/
def IirRegs.check (r : IirRegs) : Option Nat :=
  if r.nsec.isNone || !(r.active.all IirCoefs.written) then some 0x110
  else if r.active.all (fun c => decide (c.a0 = some 1)) then none
  else some 0x111

/-- The registers of all sections and the tracker zeroed (R152). -/
def IirRegs.zeroed (r : IirRegs) : IirRegs :=
  { r with regs := List.replicate r.regs.length .zero, maxReg := 0 }

/-- `IIR_MAXREG > IIR_LIMIT`: the overflow guard fires (R153). -/
def iirTrips (s : State) : Bool := decide (s.cfg.iirLimit < s.iir.maxReg)

/-- The overflow guard at the entry of a step (R153): zero the registers; emit `IIR_OVF` once. -/
def iirGuard (s : State) : State :=
  if iirTrips s then
    if s.iir.ovfLogged then s.setIir s.iir.zeroed
    else (s.setIir { s.iir.zeroed with ovfLogged := true }).emit .iirOvf
  else s

/-- `ct` of a section with input `v` (R151). -/
def iirCentre (f : NumFormat) (c : IirCoefs) (r : IirSection) (v : Num) : Num :=
  numAdd f (numAdd f (numMul f (c.b0.getD 0) v) (numMul f (c.b1.getD 0) r.x1))
    (numMul f (c.b2.getD 0) r.x2)

/-- `y` of a section with centre value `ct` (R151). -/
def iirOut (f : NumFormat) (c : IirCoefs) (r : IirSection) (ct : Num) : Num :=
  numSub f (numSub f (numMul f (c.a0.getD 0) ct) (numMul f (c.a1.getD 0) r.y1))
    (numMul f (c.a2.getD 0) r.y2)

/-- The cascade: each section with its registers, the running value and the tracker (R153). -/
def iirCascade (f : NumFormat) : List (IirCoefs × IirSection) → Num → Num →
    List IirSection × Num × Num
  | [], v, m => ([], v, m)
  | (c, r) :: rest, v, m =>
    let ct := iirCentre f c r v
    let y := iirOut f c r ct
    let (rs, v', m') := iirCascade f rest y (numMax (numMax m (numAbs ct)) (numAbs y))
    ({ x1 := v, x2 := r.x1, y1 := y, y2 := r.y1 } :: rs, v', m')

/-- The cascade over the sections below `IIR_NSEC` (R153). -/
def iirRun (f : NumFormat) (r : IirRegs) (x : Num) : Num × IirRegs :=
  let (rs, y, m) := iirCascade f (r.active.zip r.regs) x r.maxReg
  (y, { r with regs := rs ++ r.regs.drop rs.length, maxReg := m })

/-- `iir_step(x)` without its configuration test (R153). -/
def iirStep (x : Num) (s : State) : Num × State :=
  let s := iirGuard s
  let (y, r) := iirRun s.cfg.num s.iir x
  (y, s.setIir r)

/-- Load one of `a0..a2`, `b0..b2` (R157); the reserved fields stay 0. -/
def IirCoefs.load (c : IirCoefs) (v : Num) : IirCoef → IirCoefs
  | .a0 => { c with a0 := some v }
  | .a1 => { c with a1 := some v }
  | .a2 => { c with a2 := some v }
  | .b0 => { c with b0 := some v }
  | .b1 => { c with b1 := some v }
  | .b2 => { c with b2 := some v }
  | .a3 | .a4 | .b3 | .b4 => c

/-- `a3, a4, b3, b4` (R29, R157). -/
def iirCoefReserved : IirCoef → Bool
  | .a3 | .a4 | .b3 | .b4 => true
  | .a0 | .a1 | .a2 | .b0 | .b1 | .b2 => false

/-- `IIR.RESET` on a port (R152). -/
def iirResetOn (p : Port) (s : State) : State :=
  accept p .iirReset s fun _ s => s.setIir s.iir.zeroed

/-- `IIR.STEP` on a port (R153). -/
def iirStepOn (p : Port) (s : State) : State :=
  accept p .iirStep s fun items s =>
    match s.iir.check with
    | some info => refuse p (.cfgInvalid info) s
    | none =>
      let (y, s) := iirStep (operand items 0).numVal s
      s.push p (.num y)

/-- `IIR.LOADC sec, cid` on a port (R157). -/
def iirLoadcOn (p : Port) (sec : BitVec 4) (cid : IirCoef) (s : State) : State :=
  accept p (.iirLoadc sec cid) s fun items s =>
    let v := (operand items 0).numVal
    if iirCoefReserved cid && decide (v ≠ 0) then refuse p (.cfgInvalid (0x120 + cid.code.toNat)) s
    else s.setIir { s.iir with coefs := s.iir.coefs.modify sec.toNat fun c => c.load v cid }

/-- `IIR.SETN n` on a port (R158). -/
def iirSetnOn (p : Port) (n : BitVec 20) (s : State) : State :=
  accept p (.iirSetn n) s fun _ s => s.setIir { s.iir with nsec := some n.toNat }

/-- `IIR.RESET` (R152). -/
def execIirReset (s : State) : Host.Outcome State Fault Refusal := .next (iirResetOn s.port s)

/-- `IIR.STEP` (R153). -/
def execIirStep (s : State) : Host.Outcome State Fault Refusal := .next (iirStepOn s.port s)

/-- `IIR.LOADC` (R157). -/
def execIirLoadc (sec : BitVec 4) (cid : IirCoef) (s : State) :
    Host.Outcome State Fault Refusal :=
  .next (iirLoadcOn s.port sec cid s)

/-- `IIR.SETN` (R158). -/
def execIirSetn (n : BitVec 20) (s : State) : Host.Outcome State Fault Refusal :=
  .next (iirSetnOn s.port n s)

end Sys2Proof.Machine
end

