-- ==== Sys2Proof/Machine/LineCode.lean ====
section
/-! DEFINITION. 8b10b line encoder: ENC.RESET, ENC.BYTE, ENC.SYNC (spec 44_8b10b.md). -/

namespace Sys2Proof.Machine

/-- The entry of a disparity-indexed pair (column RD−, column RD+). -/
def Disparity.pick {α : Type} (d : Disparity) (pair : α × α) : α :=
  match d with
  | .neg => pair.1
  | .pos => pair.2

/-- `1 - RD`. -/
def Disparity.flip : Disparity → Disparity
  | .neg => .pos
  | .pos => .neg

/-- `ones(s)` (R184). -/
def ones {w : Nat} (x : BitVec w) : Nat := ((List.range w).filter fun i => x.getLsbD i).length

/-- Table `T5`, bits `abcdei`, columns RD− and RD+ (R185). -/
def tableT5 (x : BitVec 5) : BitVec 6 × BitVec 6 :=
  match x.toNat with
  | 0 => (0b100111, 0b011000)
  | 1 => (0b011101, 0b100010)
  | 2 => (0b101101, 0b010010)
  | 3 => (0b110001, 0b110001)
  | 4 => (0b110101, 0b001010)
  | 5 => (0b101001, 0b101001)
  | 6 => (0b011001, 0b011001)
  | 7 => (0b111000, 0b000111)
  | 8 => (0b111001, 0b000110)
  | 9 => (0b100101, 0b100101)
  | 10 => (0b010101, 0b010101)
  | 11 => (0b110100, 0b110100)
  | 12 => (0b001101, 0b001101)
  | 13 => (0b101100, 0b101100)
  | 14 => (0b011100, 0b011100)
  | 15 => (0b010111, 0b101000)
  | 16 => (0b011011, 0b100100)
  | 17 => (0b100011, 0b100011)
  | 18 => (0b010011, 0b010011)
  | 19 => (0b110010, 0b110010)
  | 20 => (0b001011, 0b001011)
  | 21 => (0b101010, 0b101010)
  | 22 => (0b011010, 0b011010)
  | 23 => (0b111010, 0b000101)
  | 24 => (0b110011, 0b001100)
  | 25 => (0b100110, 0b100110)
  | 26 => (0b010110, 0b010110)
  | 27 => (0b110110, 0b001001)
  | 28 => (0b001110, 0b001110)
  | 29 => (0b101110, 0b010001)
  | 30 => (0b011110, 0b100001)
  | _ => (0b101011, 0b010100)

/-- Table `T3`, bits `fghj`, columns RD− and RD+ (R187). -/
def tableT3 (y : BitVec 3) : BitVec 4 × BitVec 4 :=
  match y.toNat with
  | 0 => (0b1011, 0b0100)
  | 1 => (0b1001, 0b1001)
  | 2 => (0b0101, 0b0101)
  | 3 => (0b1100, 0b0011)
  | 4 => (0b1101, 0b0010)
  | 5 => (0b1010, 0b1010)
  | 6 => (0b0110, 0b0110)
  | _ => (0b1110, 0b0001)

/-- The alternate form A7, columns RD− and RD+ (R188). -/
def tableA7 : BitVec 4 × BitVec 4 := (0b0111, 0b1000)

/-- A7 replaces P7 (R184, R188). -/
def usesA7 (x : BitVec 5) (y : BitVec 3) (rd1 : Disparity) : Bool :=
  decide (y.toNat = 7) &&
    match rd1 with
    | .neg => decide (x.toNat = 17) || decide (x.toNat = 18) || decide (x.toNat = 20)
    | .pos => decide (x.toNat = 11) || decide (x.toNat = 13) || decide (x.toNat = 14)

/-- The disparity after a half of `n` bits: unchanged when it is balanced, else flipped (R186, R189). -/
def disparityAfter {w : Nat} (half : BitVec w) (rd : Disparity) : Disparity :=
  if 2 * ones half = w then rd else rd.flip

/-- The six-bit half of a byte (R184). -/
def encSix (rd : Disparity) (v : Byte) : BitVec 6 := rd.pick (tableT5 (v.extractLsb' 0 5))

/-- The four-bit half of a byte, by the disparity after the six-bit half (R184). -/
def encFour (rd1 : Disparity) (v : Byte) : BitVec 4 :=
  if usesA7 (v.extractLsb' 0 5) (v.extractLsb' 5 3) rd1 then rd1.pick tableA7
  else rd1.pick (tableT3 (v.extractLsb' 5 3))

/-- `enc_byte(v)`: the word and the disparity after it (R183, R184). -/
def encByte (rd : Disparity) (v : Byte) : Word10 × Disparity :=
  let six := encSix rd v
  let rd1 := disparityAfter six rd
  let four := encFour rd1 v
  (six ++ four, disparityAfter four rd1)

/-- The initial sync word, K28.5 at RD− (R191, R207). -/
def syncWord : Word10 := 0x0FA

/-- `enc_sync()` (R191). -/
def encSync (rd : Disparity) : Word10 × Disparity := (rd.pick (syncWord, 0x305), rd.flip)

/-- `ENC.RESET` on a port (R192). -/
def encResetOn (p : Port) (s : State) : State :=
  accept p .encReset s fun _ s => s.setEnc { s.enc with rd := .neg }

/-- `ENC.BYTE v` on a port (R184). -/
def encByteOn (p : Port) (v : Byte) (s : State) : State :=
  accept p (.encByte v) s fun _ s =>
    let (w, rd) := encByte s.enc.rd v
    (s.setEnc { s.enc with rd := rd }).push p (.word10 w)

/-- `ENC.SYNC` on a port (R191). -/
def encSyncOn (p : Port) (s : State) : State :=
  accept p .encSync s fun _ s =>
    let (w, rd) := encSync s.enc.rd
    (s.setEnc { s.enc with rd := rd }).push p (.word10 w)

/-- `ENC.RESET` (R192). -/
def execEncReset (s : State) : Host.Outcome State Fault Refusal := .next (encResetOn s.port s)

/-- `ENC.BYTE` (R184). -/
def execEncByte (v : Byte) (s : State) : Host.Outcome State Fault Refusal :=
  .next (encByteOn s.port v s)

/-- `ENC.SYNC` (R191). -/
def execEncSync (s : State) : Host.Outcome State Fault Refusal := .next (encSyncOn s.port s)

end Sys2Proof.Machine
end

