-- ==== Sys2Proof/Machine/ReedSolomon.lean ====
section
/-! DEFINITION. Reed-Solomon parity generator: RS.CLEAR, RS.UPDATE, RS.READ (spec
43_reed_solomon.md). The field polynomial and the generator polynomial are `CFG.RS_CODE`. -/

namespace Sys2Proof.Machine

/-- One doubling of `gmul`: `a << 1`, reduced by the field polynomial (R166 (a)). -/
def gdouble (field : BitVec 9) (a : Byte) : Byte :=
  let d : BitVec 9 := a.zeroExtend 9 <<< 1
  if d.getLsbD 8 then (d ^^^ field).truncate 8 else d.truncate 8

/-- The loop of `gmul` over bits `i` from `8 - k` up of `b` (R166 (a)). -/
def gmulLoop (field : BitVec 9) (b : Byte) : Nat → Byte → Byte → Byte
  | 0, _, p => p
  | k + 1, a, p =>
    gmulLoop field b k (gdouble field a) (if b.getLsbD (7 - k) then p ^^^ a else p)

/-- Multiplication in GF(256) (R166 (a)). -/
def gmul (field : BitVec 9) (a b : Byte) : Byte := gmulLoop field b 8 a 0

/-- `fb ← d ^ PARITY[0]` (R168). -/
def rsFeedback (parity : List Byte) (d : Byte) : Byte := d ^^^ parity.getD 0 0

/-- `rs_update(d)` on the parity array: `PARITY[j] <- PARITY[j+1] ^ gmul(fb, G[NP-1-j])`, with 0 for
the entry past the end (R168). -/
def rsUpdate (c : Config) (parity : List Byte) (d : Byte) : List Byte :=
  List.zipWith (fun q g => q ^^^ gmul c.rsField (rsFeedback parity d) g)
    (parity.drop 1 ++ [0]) ((c.rsGen.take parity.length).reverse)

/-- `PARITY` all zero (R167). -/
def EncRegs.clearParity (x : EncRegs) : EncRegs :=
  { x with parity := List.replicate x.parity.length 0 }

/-- `RS.CLEAR` on a port (R167). -/
def rsClearOn (p : Port) (s : State) : State :=
  accept p .rsClear s fun _ s => s.setEnc s.enc.clearParity

/-- `RS.UPDATE d` on a port (R168). -/
def rsUpdateOn (p : Port) (d : Byte) (s : State) : State :=
  accept p (.rsUpdate d) s fun _ s =>
    s.setEnc { s.enc with parity := rsUpdate s.cfg s.enc.parity d }

/-- `RS.READ index` on a port (R169). -/
def rsReadOn (p : Port) (index : BitVec 5) (s : State) : State :=
  accept p (.rsRead index) s fun _ s => s.push p (.byte (s.enc.parity.getD index.toNat 0))

/-- `RS.CLEAR` (R167). -/
def execRsClear (s : State) : Host.Outcome State Fault Refusal := .next (rsClearOn s.port s)

/-- `RS.UPDATE` (R168). -/
def execRsUpdate (d : Byte) (s : State) : Host.Outcome State Fault Refusal :=
  .next (rsUpdateOn s.port d s)

/-- `RS.READ` (R169). -/
def execRsRead (index : BitVec 5) (s : State) : Host.Outcome State Fault Refusal :=
  .next (rsReadOn s.port index s)

end Sys2Proof.Machine
end

