-- ==== Sys2Proof/Machine/Frame.lean ====
section
/-! DEFINITION. Frame assembly, double-buffer handoff, bit iterator: FRAME.ENCODE, FRAME.FILL,
FRAME.RDY, FRAME.POLL, FRAME.REQ, FRAME.NEXTBIT (spec 45_frame_encoder.md). FRAME.FILL runs in the
three steps of R205; between them the schedule may let the CMD port move (R69 (b), log entry 8). -/

namespace Sys2Proof.Machine

/-! ## encode_frame -/

/-- Encode bytes in order under the running disparity (R201). -/
def encBytes : Disparity → List Byte → List Word10 × Disparity
  | rd, [] => ([], rd)
  | rd, v :: vs =>
    let (w, rd₁) := encByte rd v
    let (ws, rd₂) := encBytes rd₁ vs
    (w :: ws, rd₂)

/-- The parity array after the bytes of a payload, from the cleared state (R201 step 2). -/
def rsParity (c : Config) (payload : List Byte) : List Byte :=
  payload.foldl (rsUpdate c) (List.replicate c.parityLen 0)

/-- `encode_frame(p)`: the words of the frame and the encoder registers after it (R201). -/
def encodeFrame (c : Config) (rd : Disparity) (payload : List Byte) : List Word10 × EncRegs :=
  let parity := rsParity c payload
  let (dataWords, rd₁) := encBytes rd payload
  let (parityWords, rd₂) := encBytes rd₁ parity
  let (sync, rd₃) := encSync rd₂
  (dataWords ++ parityWords ++ [sync], { parity := parity, rd := rd₃ })

/-- `FRAME.ENCODE` on a port (R203). -/
def frameEncodeOn (p : Port) (s : State) : State :=
  accept p .frameEncode s fun items s =>
    let (ws, enc) := encodeFrame s.cfg s.enc.rd (items.map Item.byteVal)
    (s.setEnc enc).pushAll p (ws.map Item.word10)

/-! ## FRAME.FILL, three steps -/

/-- Step 1, claim: `FILL_STATE <- FILLING; s <- 1 - READY_INDEX` (R205). -/
def fillClaim (s : State) : State :=
  (s.setHand { s.hand with fillState := .filling }).setFillJob
    (some (.claimed s.hand.ready.other))

/-- The words of a slot after `for k in 0..FRAME_LEN-1: BUF[s][k] <- w[k]` (R205). -/
def slotWords (frameLen : Nat) (ws : List Word10) : List Word10 :=
  (List.range frameLen).map fun k => ws.getD k 0

/-- Step 2, encode and write: pop the payload, encode it, write `BUF[slot]` (R205). -/
def fillWrite (p : Port) (slot : Slot) (s : State) : State :=
  let (ws, enc) := encodeFrame s.cfg s.enc.rd ((s.io p).din.map Item.byteVal)
  ((((s.clearDin p).setEnc enc).setHand (s.hand.setBuf slot (slotWords s.cfg.frameLen ws))).setFillJob
    (some (.written slot)))

/-- Step 3, publish: `READY_INDEX <- slot; FILL_STATE <- IDLE` (R205). -/
def fillPublish (slot : Slot) (s : State) : State :=
  (s.setHand { s.hand with ready := slot, fillState := .idle }).setFillJob none

/-- At a point between two steps of FRAME.FILL, the schedule gives the next move to another agent. -/
def fillYields (s : State) : Bool :=
  match s.turns with
  | [] | .fill :: _ => false
  | .cmd :: _ | .reset :: _ => true

/-- Use up the schedule entry that lets FRAME.FILL go on. -/
def takeFillTurn (s : State) : State :=
  match s.turns with
  | .fill :: rest => s.setTurns rest
  | [] | .cmd :: _ | .reset :: _ => s

/-- From the point after step 2: publish now, or leave the operation in progress. -/
def fillFinish (slot : Slot) (s : State) : State :=
  if fillYields s then s else fillPublish slot (takeFillTurn s)

/-- From the point after step 1: go on now, or leave the operation in progress. -/
def fillContinue (p : Port) (slot : Slot) (s : State) : State :=
  if fillYields s then s else fillFinish slot (fillWrite p slot (takeFillTurn s))

/-- `FRAME.FILL` on a port (R205): the claim, then as far as the schedule lets it. Its frame stays in
`DIN` until step 2 pops it. -/
def frameFillOn (p : Port) (s : State) : State :=
  guarded p .frameFill s fun s => fillContinue p s.hand.ready.other (fillClaim s)

/-- Resume a `FRAME.FILL` left in progress: its next step, then as far as the schedule lets it. -/
def fillResume (j : FillJob) (s : State) : State :=
  match j with
  | .claimed slot => fillFinish slot (fillWrite .fill slot s)
  | .written slot => fillPublish slot s

/-- The `FRAME.FILL` in progress that the FILL port goes on with. In the halted state there is none: a
waiting one is frozen with all other state until reset (the reading of R281 against R74 of log entry
10). -/
def activeJob (s : State) : Option FillJob := if s.flt.halted then none else s.fillJob

/-! ## The handoff reads and FRAME.REQ -/

/-- `FRAME.RDY` on a port (R206). -/
def frameRdyOn (p : Port) (s : State) : State :=
  accept p .frameRdy s fun _ s => s.push p (.bit s.hand.ready.toBit)

/-- `FRAME.POLL` on a port (R210). -/
def framePollOn (p : Port) (s : State) : State :=
  accept p .framePoll s fun _ s => s.push p (.bit s.fillRequested)

/-- Latch the ready slot and request the next fill, when a frame has been published (R208, R209). -/
def HandRegs.latch (h : HandRegs) : HandRegs :=
  match h.fillState with
  | .idle => { h with active := h.ready, fillState := .requested }
  | .requested | .filling => h

/-- `FRAME.REQ` on a port (R209). -/
def frameReqOn (p : Port) (s : State) : State :=
  accept p .frameReq s fun _ s => s.setHand s.hand.latch

/-! ## The bit iterator -/

/-- `frame_boundary()`, one atomic handoff access (R208). -/
def frameBoundary (s : State) : State :=
  let s := s.setIter { s.iter with wordsSent := 0 }
  match s.hand.fillState with
  | .idle => s.setHand s.hand.latch
  | .requested => s.emit (.refillLate .requested)
  | .filling => s.emit (.refillLate .filling)

/-- The exhausted word is the initial sync word or the last word of the frame: the next call crosses a
frame boundary (R207, R211 "awaiting_frame_swap"). -/
def atBoundary (s : State) : Bool :=
  s.iter.firstPacket || decide (s.iter.wordsSent + 1 = s.cfg.frameLen)

/-- The iterator's own updates that go with a boundary: `BITS_SENT <- 0; FIRST_PACKET <- 0`, then
`frame_boundary()`, which sets `WORDS_SENT` (R207, R208). -/
def crossBoundary (s : State) : State :=
  frameBoundary (s.setIter { s.iter with bitsSent := 0, firstPacket := false })

/-- The lazy advance to the next word when the previous one is exhausted (R207). The interleaving
points of a boundary stand before and after it (R69 (c)); FILLER cannot reach the iterator, so the
first one may stand before the iterator's own updates. -/
def iterAdvance (interleave : State → State) (s : State) : State :=
  if s.iter.bitsSent = 10 then
    if atBoundary s then interleave (crossBoundary (interleave s))
    else s.setIter { s.iter with bitsSent := 0, wordsSent := s.iter.wordsSent + 1 }
  else s

/-- The word the iterator is in: the initial sync word, or `BUF[ACTIVE_INDEX][WORDS_SENT] & 0x3FF`
(R207). -/
def iterWord (s : State) : Word10 :=
  if s.iter.firstPacket then syncWord
  else (s.hand.buf s.hand.active).getD s.iter.wordsSent 0 &&& 0x3FF

/-- `next_bit()` (R207), with what may happen at the interleaving points of a boundary. -/
def nextBit (interleave : State → State) (s : State) : Bool × State :=
  let s := iterAdvance interleave s
  ((iterWord s).getLsbD (9 - s.iter.bitsSent),
    s.setIter { s.iter with bitsSent := s.iter.bitsSent + 1 })

/-- `FRAME.NEXTBIT` on a port (R207); the operation is atomic (R69). -/
def frameNextbitOn (p : Port) (s : State) : State :=
  accept p .frameNextbit s fun _ s =>
    let (b, s) := nextBit id s
    s.push p (.bit b)

/-- `FRAME.ENCODE` (R203). -/
def execFrameEncode (s : State) : Host.Outcome State Fault Refusal :=
  .next (frameEncodeOn s.port s)

/-- `FRAME.FILL` (R205). -/
def execFrameFill (s : State) : Host.Outcome State Fault Refusal := .next (frameFillOn s.port s)

/-- `FRAME.RDY` (R206). -/
def execFrameRdy (s : State) : Host.Outcome State Fault Refusal := .next (frameRdyOn s.port s)

/-- `FRAME.REQ` (R209). -/
def execFrameReq (s : State) : Host.Outcome State Fault Refusal := .next (frameReqOn s.port s)

/-- `FRAME.NEXTBIT` (R207). -/
def execFrameNextbit (s : State) : Host.Outcome State Fault Refusal :=
  .next (frameNextbitOn s.port s)

/-- `FRAME.POLL` (R210). -/
def execFramePoll (s : State) : Host.Outcome State Fault Refusal := .next (framePollOn s.port s)

end Sys2Proof.Machine
end

