-- ==== Sys2Proof/Machine/Params.lean ====
section
/-! DEFINITION. The system operations: NOP (spec R105), PAR.GET, PAR.SET (R261, R262), FAULT.GET
(R264), over the parameter store of R40. -/

namespace Sys2Proof.Machine

/-- A bool register as an int item (R102). -/
def boolItem (b : Bool) : Item := .int (if b then 1 else 0)

/-- The number of a mode (R39). -/
def Mode.code : Mode → Nat
  | .tone => 0
  | .measure => 1
  | .hs => 2
  | .duv => 3

/-- `CUR_MODE`: the mode of `CUR_KEY`, or 4 while there is none (R40, R238). -/
def ProcRegs.curMode (p : ProcRegs) : Nat :=
  match p.curKey with
  | none => 4
  | some k => k.mode.code

/-- The value of a register, `none` when it is unwritten (R40, R261). -/
def parRead (s : State) : ParReg → Option Item
  | .hpfEn => some (boolItem s.par.hpfEn)
  | .bitLpfEn => some (boolItem s.par.bitLpfEn)
  | .telemEn => some (boolItem s.par.telemEn)
  | .highSpeedEn => some (boolItem s.par.highSpeedEn)
  | .testPatternEn => some (boolItem s.par.testPatternEn)
  | .testToneEn => some (boolItem s.par.testToneEn)
  | .testToneFreq => s.par.testToneFreq.map .num
  | .toneMeasEn => some (boolItem s.par.toneMeasEn)
  | .sampleRate => some (.int s.par.sampleRate)
  | .bps => s.par.bps.map .int
  | .decimationRate => some (.int s.par.decimationRate)
  | .rampEn => some (boolItem s.par.rampEn)
  | .rampAmt => s.par.rampAmt.map .num
  | .oneValue => s.par.oneValue.map .num
  | .zeroValue => s.par.zeroValue.map .num
  | .periodLen => some (.int s.par.periodLen)
  | .toneKind => some (.int (match s.par.toneKind with | .analog => 0 | .digital => 1))
  | .toneLevel => some (.num s.par.toneLevel)
  | .xrunCount => some (.int s.par.xrunCount)
  | .samplesPerBit => s.modu.samplesPerBit.map .int
  | .readyIndex => some (.bit s.hand.ready.toBit)
  | .peak => some (.num s.proc.peak)
  | .ltMax => some (.duration s.proc.ltMax)
  | .ltMin => some (match s.proc.ltMin with | none => .noDuration | some d => .duration d)
  | .ltTotal => some (.duration s.proc.ltTotal)
  | .ltCount => some (.int s.proc.ltCount)
  | .curMode => some (.int s.proc.curMode)

/-- A bool register's legal values are 0 and 1 (R40). -/
def boolOf (v : Item) : Option Bool :=
  match v.intVal with
  | 0 => some false
  | 1 => some true
  | _ => none

/-- An int register's legal range (R40). -/
def intIn (lo hi : Nat) (v : Item) : Option Nat :=
  if lo ≤ v.intVal ∧ v.intVal ≤ hi then some v.intVal else none

/-- The store after writing a register; `none` when the value is outside its legal values, or the
register is read-only (R40, R262). -/
def parWrite (r : ParRegs) (v : Item) : ParReg → Option ParRegs
  | .hpfEn => (boolOf v).map fun b => { r with hpfEn := b }
  | .bitLpfEn => (boolOf v).map fun b => { r with bitLpfEn := b }
  | .telemEn => (boolOf v).map fun b => { r with telemEn := b }
  | .highSpeedEn => (boolOf v).map fun b => { r with highSpeedEn := b }
  | .testPatternEn => (boolOf v).map fun b => { r with testPatternEn := b }
  | .testToneEn => (boolOf v).map fun b => { r with testToneEn := b }
  | .testToneFreq => if 0 ≤ v.numVal then some { r with testToneFreq := some v.numVal } else none
  | .toneMeasEn => (boolOf v).map fun b => { r with toneMeasEn := b }
  | .sampleRate => (intIn 1 (2 ^ 32 - 1) v).map fun n => { r with sampleRate := n }
  | .bps => (intIn 1 (2 ^ 32 - 1) v).map fun n => { r with bps := some n }
  | .decimationRate => (intIn 1 (2 ^ 16 - 1) v).map fun n => { r with decimationRate := n }
  | .rampEn => (boolOf v).map fun b => { r with rampEn := b }
  | .rampAmt => some { r with rampAmt := some v.numVal }
  | .oneValue => some { r with oneValue := some v.numVal }
  | .zeroValue => some { r with zeroValue := some v.numVal }
  | .periodLen => (intIn 1 (2 ^ 20 - 1) v).map fun n => { r with periodLen := n }
  | .toneKind => (boolOf v).map fun b => { r with toneKind := if b then .digital else .analog }
  | .toneLevel => some { r with toneLevel := v.numVal }
  | .xrunCount => (intIn 0 (2 ^ 32 - 1) v).map fun n => { r with xrunCount := n }
  | .samplesPerBit | .readyIndex | .peak | .ltMax | .ltMin | .ltTotal | .ltCount | .curMode => none

/-- `NOP` on a port (R105). -/
def nopOn (p : Port) (s : State) : State := accept p .nop s fun _ s => s

/-- `PAR.GET reg` on a port (R261). -/
def parGetOn (p : Port) (r : ParReg) (s : State) : State :=
  accept p (.parGet r) s fun _ s =>
    match parRead s r with
    | none => refuse p (.cfgInvalid r.code.toNat) s
    | some v => s.push p v

/-- `PAR.SET reg` on a port (R262). -/
def parSetOn (p : Port) (r : ParReg) (s : State) : State :=
  accept p (.parSet r) s fun items s =>
    match parWrite s.par (operand items 0) r with
    | none => refuse p (.cfgInvalid r.code.toNat) s
    | some par => s.setPar par

/-- `FAULT.GET` on a port (R264). -/
def faultGetOn (p : Port) (s : State) : State :=
  accept p .faultGet s fun _ s => s.push p (.int s.flt.fault.toNat)

/-- `NOP` (R105). -/
def execNop (s : State) : Host.Outcome State Fault Refusal := .next (nopOn s.port s)

/-- `PAR.GET` (R261). -/
def execParGet (r : ParReg) (s : State) : Host.Outcome State Fault Refusal :=
  .next (parGetOn s.port r s)

/-- `PAR.SET` (R262). -/
def execParSet (r : ParReg) (s : State) : Host.Outcome State Fault Refusal :=
  .next (parSetOn s.port r s)

/-- `FAULT.GET` (R264). -/
def execFaultGet (s : State) : Host.Outcome State Fault Refusal := .next (faultGetOn s.port s)

end Sys2Proof.Machine
end

