-- ==== Sys2Proof/Machine/FillPort.lean ====
section
/-! DEFINITION. The moves FILLER makes at the interleaving points inside a CMD operation (spec R69 (c),
R236, log entry 9): a command of the FILL port, or the next step of a FRAME.FILL in progress. -/

namespace Sys2Proof.Machine

/-- A decoded command on the FILL port. The operations that R96 does not allow there are refused by
their own legality test. -/
def fillExec (i : Instr) (s : State) : State :=
  match i with
  | .nop => nopOn .fill s
  | .rsClear => rsClearOn .fill s
  | .rsUpdate d => rsUpdateOn .fill d s
  | .rsRead index => rsReadOn .fill index s
  | .encReset => encResetOn .fill s
  | .encByte d => encByteOn .fill d s
  | .encSync => encSyncOn .fill s
  | .frameEncode => frameEncodeOn .fill s
  | .frameFill => frameFillOn .fill s
  | .frameRdy => frameRdyOn .fill s
  | .framePoll => framePollOn .fill s
  | .faultGet => faultGetOn .fill s
  | .oscInit | .oscNext _ | .firReset _ | .firStep _ | .firLoadc _ _ | .firGenrc _ _
  | .firGenrrc _ _ | .iirReset | .iirStep | .iirLoadc _ _ | .iirSetn _ | .frameReq | .frameNextbit
  | .modInit | .modBit | .procPeriod _ | .parGet _ | .parSet _ =>
    refuse .fill (.cmdIllegal (encode i)) s

/-- A transaction on the FILL port, its frame already in `DIN`. -/
def fillCommand (w : Word) (s : State) : State :=
  match decode w with
  | .error _ => refuse .fill (.cmdIllegal w) s
  | .ok i => fillExec i s

/-- One move of FILLER: resume the FRAME.FILL in progress, or begin the next transaction delivered, or
nothing. -/
def fillMove (s : State) : State :=
  match activeJob s with
  | some j => fillResume j s
  | none =>
    match s.fill.inbox with
    | [] => s
    | t :: rest => fillCommand t.word (s.setFill { s.fill with inbox := rest, din := t.frame })

/-- The moves of FILLER that the schedule puts at this point: each leading `fill` entry is one move; a
`cmd` entry lets the CMD operation go on (a `reset` entry is left for the step, log entry 9). -/
def fillTurns : Nat → State → State
  | 0, s => s
  | n + 1, s =>
    match s.turns with
    | .fill :: rest => fillTurns n (fillMove (s.setTurns rest))
    | .cmd :: rest => s.setTurns rest
    | [] | .reset :: _ => s

/-- An interleaving point inside a CMD operation (R69 (c)). -/
def interleave (s : State) : State := fillTurns s.turns.length s

end Sys2Proof.Machine
end

