-- ==== Sys2Proof/Machine/Modulator.lean ====
section
/-! DEFINITION. Bit modulator: MOD.INIT, MOD.BIT (spec 46_bit_modulator.md). -/

namespace Sys2Proof.Machine

/-- The largest value of a 32-bit counter; `sat(n) = min(n, 2³² - 1)` (R224). -/
def sat (n : Nat) : Nat := min n (2 ^ 32 - 1)

/-- `SAMPLES_PER_BIT = (SAMPLE_RATE div decimation_rate) div bit_rate` (R220). -/
def samplesPerBitOf (sampleRate bitRate decimation : Nat) : Nat :=
  sampleRate / decimation / bitRate

/-- `mod_init` once its arguments are accepted (R222). -/
def modRestart (spb : Nat) (s : State) : State :=
  firClear .bit
    ((s.setModu
        { state := .starting, currentBit := false, samplesSent := 0, onesRun := 0, zerosRun := 0,
          samplesPerBit := some spb }).setIter
      { firstPacket := true, bitsSent := 0, wordsSent := 0 })

/-- `MOD.INIT` refuses these arguments (R222). -/
def modInitRejects (sampleRate bitRate decimation : Nat) : Bool :=
  decide (bitRate = 0) || decide (decimation = 0)
    || decide (samplesPerBitOf sampleRate bitRate decimation < 1)

/-- `MOD.INIT` on a port (R222). -/
def modInitOn (p : Port) (s : State) : State :=
  accept p .modInit s fun items s =>
    let bitRate := (operand items 0).intVal
    let decimation := (operand items 1).intVal
    if modInitRejects s.par.sampleRate bitRate decimation then refuse p (.cfgInvalid 0x131) s
    else modRestart (samplesPerBitOf s.par.sampleRate bitRate decimation) s

/-- The first of a list of tests that holds gives its code (R283). -/
def firstFailure : List (Bool × Nat) → Option Nat
  | [] => none
  | (fails, info) :: rest => if fails then some info else firstFailure rest

/-- The ramp applies: `RAMP_EN = 1` and `HIGH_SPEED_EN = 0` (R224). -/
def rampOn (r : ParRegs) : Bool := r.rampEn && !r.highSpeedEn

/-- The preconditions of `MOD.BIT`, in the order of R283. -/
def modBitCheck (s : State) : Option Nat :=
  firstFailure
    [(s.modu.samplesPerBit.isNone, 32),
     (s.par.oneValue.isNone, 13),
     (s.par.zeroValue.isNone, 14),
     (rampOn s.par && s.par.rampAmt.isNone, 12),
     (s.par.bitLpfEn && !s.firBit.written, 0x102)]

/-- A new bit is due: `MOD_STATE = STARTING or SAMPLES_SENT >= SAMPLES_PER_BIT` (R224). -/
def modBitDue (m : ModRegs) : Bool :=
  decide (m.state = .starting) || decide (m.samplesPerBit.getD 0 ≤ m.samplesSent)

/-- The modulator registers after starting bit `b` (R224). -/
def ModRegs.start (m : ModRegs) (b : Bool) : ModRegs :=
  { m with
    state := .withinBit, currentBit := b, samplesSent := 0
    onesRun := if b then sat (m.onesRun + 1) else 0
    zerosRun := if b then 0 else sat (m.zerosRun + 1) }

/-- Pull the next bit: the inverted previous one in test-pattern mode, else `next_bit()` (R224). -/
def modPull (s : State) : Bool × State :=
  if s.par.testPatternEn then (!s.modu.currentBit, s) else nextBit interleave s

/-- Start a new bit if one is due (R224). -/
def modStart (s : State) : State :=
  if modBitDue s.modu then
    let (b, s₁) := modPull s
    s₁.setModu (s₁.modu.start b)
  else s

/-- The level of the current bit with its ramp, before the filter (R224, R226). -/
def modLevel (f : NumFormat) (r : ParRegs) (m : ModRegs) : Num :=
  let v := if m.currentBit then r.oneValue.getD 0 else r.zeroValue.getD 0
  let amt := r.rampAmt.getD 0
  if rampOn r then
    if m.currentBit then numAdd f v (numMul f amt (((m.onesRun : Int) - 1 : Int) : Rat))
    else numSub f v (numMul f amt (((m.zerosRun : Int) - 1 : Int) : Rat))
  else v

/-- `mod_bit()` without its precondition tests (R224). -/
def modBit (s : State) : Num × State :=
  let s := modStart s
  let s := s.setModu { s.modu with samplesSent := s.modu.samplesSent + 1 }
  let v := modLevel s.cfg.num s.par s.modu
  if s.par.bitLpfEn then firStep .bit v s else (v, s)

/-- `MOD.BIT` on a port (R224). -/
def modBitOn (p : Port) (s : State) : State :=
  accept p .modBit s fun _ s =>
    match modBitCheck s with
    | some info => refuse p (.cfgInvalid info) s
    | none =>
      let (y, s) := modBit s
      s.push p (.num y)

/-- `MOD.INIT` (R222). -/
def execModInit (s : State) : Host.Outcome State Fault Refusal := .next (modInitOn s.port s)

/-- `MOD.BIT` (R224). -/
def execModBit (s : State) : Host.Outcome State Fault Refusal := .next (modBitOn s.port s)

end Sys2Proof.Machine
end

