-- ==== Sys2Proof/Machine/Osc.lean ====
section
/-! DEFINITION. Oscillator/Table unit: OSC.INIT, OSC.NEXT (spec 40_oscillator.md). -/

namespace Sys2Proof.Machine

/-- The oscillator restarted at a frequency: `OSC_PHASE <- 0; OSC_INC <- freq / SAMPLE_RATE` (R123). -/
def oscRestart (freq : Num) (s : State) : State :=
  s.setOsc { phase := 0, inc := numDiv s.cfg.num freq (s.par.sampleRate : Rat) }

/-- The phase after one increment, wrapped into [0, 1) (R124). -/
def oscAdvance (f : NumFormat) (o : OscRegs) : Num :=
  let p := numAdd f o.phase o.inc
  numSub f p (Rat.floor p : Rat)

/-- The table index of a phase: truncated, at most `TABLE_LEN - 1` (R124). -/
def oscIndex (c : Config) (phase : Num) : Nat :=
  min (Rat.floor (numMul c.num phase (c.tableLen : Rat))).toNat (c.tableLen - 1)

/-- A table entry (R121). -/
def oscTable (c : Config) (sel : TableSel) (idx : Nat) : Num :=
  match sel with
  | .sine => c.sinTab.getD idx 0
  | .cosine => c.cosTab.getD idx 0

/-- `osc_next(sel)` (R124): advance the phase, then read the table at the new phase. -/
def oscNext (sel : TableSel) (s : State) : Num × State :=
  let phase := oscAdvance s.cfg.num s.osc
  (oscTable s.cfg sel (oscIndex s.cfg phase), s.setOsc { s.osc with phase := phase })

/-- `OSC.INIT` on a port (R123). -/
def oscInitOn (p : Port) (s : State) : State :=
  accept p .oscInit s fun _ s =>
    match s.par.testToneFreq with
    | none => refuse p (.cfgInvalid 6) s
    | some freq => oscRestart freq s

/-- `OSC.NEXT sel` on a port (R124). -/
def oscNextOn (p : Port) (sel : TableSel) (s : State) : State :=
  accept p (.oscNext sel) s fun _ s =>
    let (y, s) := oscNext sel s
    s.push p (.num y)

/-- `OSC.INIT` (R123). -/
def execOscInit (s : State) : Host.Outcome State Fault Refusal := .next (oscInitOn s.port s)

/-- `OSC.NEXT` (R124). -/
def execOscNext (sel : TableSel) (s : State) : Host.Outcome State Fault Refusal :=
  .next (oscNextOn s.port sel s)

end Sys2Proof.Machine
end

