-- ==== Sys2Proof/Machine/Period.lean ====
section
/-! DEFINITION. Period processor: PROC.PERIOD (spec 47_period_processor.md). -/

namespace Sys2Proof.Machine

/-! ## Mode and configuration -/

/-- `resolve_mode()` (R237). -/
def resolveMode (r : ParRegs) : Mode :=
  if r.testToneEn then .tone
  else if r.toneMeasEn then .measure
  else if r.highSpeedEn then .hs
  else .duv

/-- The mode key of step 5 (R236, R238). -/
def modeKeyOf (r : ParRegs) : ModeKey :=
  { mode := resolveMode r, sampleRate := r.sampleRate, decimationRate := r.decimationRate,
    bps := r.bps, hpfEn := r.hpfEn, bitLpfEn := r.bitLpfEn, telemEn := r.telemEn,
    testPatternEn := r.testPatternEn }

/-- The conditions a telemetry mode puts on `BPS`, the levels, the ramp and the shaping filter, the
modulator stepped at `SAMPLE_RATE div decimation` (R248). -/
def telemChecks (s : State) (decimation : Nat) : List (Bool × Nat) :=
  [(s.par.bps.isNone, 9),
   (decide (samplesPerBitOf s.par.sampleRate (s.par.bps.getD 0) decimation < 1), 0x131),
   (s.par.oneValue.isNone, 13),
   (s.par.zeroValue.isNone, 14),
   (rampOn s.par && s.par.rampAmt.isNone, 12),
   (s.par.bitLpfEn && !s.firBit.written, 0x102)]

/-- `config_ok(mode)`: the code of the first condition that fails, in the order of R248. -/
def configFailure (s : State) : Option Nat :=
  match resolveMode s.par with
  | .measure => none
  | .tone =>
    firstFailure
      [(s.par.testToneFreq.isNone, 6),
       (decide (s.par.toneKind = .digital) && s.par.oneValue.isNone, 13),
       (decide (s.par.toneKind = .digital) && s.par.zeroValue.isNone, 14)]
  | .hs => firstFailure (telemChecks s 1)
  | .duv =>
    firstFailure
      ([(decide (s.par.periodLen % s.par.decimationRate ≠ 0), 0x130),
        (!s.firDec.written, 0x100),
        (!s.firInt.written, 0x101),
        (s.par.hpfEn && decide (s.iir.check = some 0x110), 0x110),
        (s.par.hpfEn && decide (s.iir.check = some 0x111), 0x111)]
        ++ if s.par.telemEn then telemChecks s s.par.decimationRate else [])

/-! ## Mode entry (R238) -/

/-- The resets every mode entry makes: `CLIP_LOGGED`, the DEC and INT histories, the IIR registers. -/
def entryCommon (s : State) : State :=
  let s := firClear .int (firClear .dec (s.setProc { s.proc with clipLogged := false }))
  s.setIir s.iir.zeroed

/-- What a mode entry restarts for its mode. -/
def entryMode (key : ModeKey) (s : State) : State :=
  match key.mode with
  | .hs => modRestart (samplesPerBitOf s.par.sampleRate (s.par.bps.getD 0) 1) s
  | .duv =>
    if s.par.telemEn then
      modRestart (samplesPerBitOf s.par.sampleRate (s.par.bps.getD 0) s.par.decimationRate) s
    else s
  | .tone => oscRestart (s.par.testToneFreq.getD 0) s
  | .measure => s.setProc { s.proc with peak := 0, measCount := 0 }

/-- `mode_entry(key)` (R238). -/
def modeEntry (key : ModeKey) (s : State) : State :=
  let s := entryMode key (entryCommon s)
  s.setProc { s.proc with curKey := some key }

/-- Step 5 of R236: a mode entry when the key differs from the latched one, or there is none. -/
def enterMode (s : State) : State :=
  if s.proc.curKey = some (modeKeyOf s.par) then s else modeEntry (modeKeyOf s.par) s

/-! ## Sample loops -/

/-- `clip_check(o, i)` (R249). -/
def clipCheck (i : Nat) (o : Num) (s : State) : State :=
  if s.cfg.clipLimit < numAbs o ∧ s.proc.clipLogged = false then
    (s.setProc { s.proc with clipLogged := true }).emit (.clip i)
  else s

/-- One sample of TONE mode (R239). -/
def toneSample (_ : Nat) (_ : Unit) (s : State) : Num × State :=
  let (v, s) := oscNext .sine s
  match s.par.toneKind with
  | .analog => (numMul s.cfg.num s.par.toneLevel v, s)
  | .digital => (if 0 ≤ v then s.par.oneValue.getD 0 else s.par.zeroValue.getD 0, s)

/-- `run_tone` (R239). -/
def runTone (s : State) : List Num × State :=
  runList toneSample 0 (List.replicate s.par.periodLen ()) s

/-- One sample of MEASURE mode: the running peak of the absolute value (R240). -/
def measureSample (_ : Nat) (x : Num) (s : State) : Num × State :=
  (x, if s.proc.peak < numAbs x then s.setProc { s.proc with peak := numAbs x } else s)

/-- The window test of MEASURE mode (R240). -/
def measureWindow (s : State) : State :=
  let count := s.proc.measCount + 1
  if count = s.cfg.measWindow then
    (s.setProc { s.proc with peak := 0, measCount := 0 }).emit (.peakReport s.proc.peak)
  else s.setProc { s.proc with measCount := count }

/-- `run_measure` (R240). -/
def runMeasure (ins : List Num) (s : State) : List Num × State :=
  let (out, s) := runList measureSample 0 ins s
  (out, measureWindow s)

/-- One sample of HS mode (R241): the clipping test of a sample comes before the next sample's bit, so a
CLIP may precede a REFILL_LATE of the same period (against the list of R253: log entry 19). -/
def hsSample (i : Nat) (_ : Unit) (s : State) : Num × State :=
  let (o, s) := modBit s
  (o, clipCheck i o s)

/-- `run_hs` (R241). -/
def runHs (s : State) : List Num × State :=
  runList hsSample 0 (List.replicate s.par.periodLen ()) s

/-- Of the filtered samples keep the last of each group of `N` (R243). -/
def keepLast (n : Nat) (ys : List Num) : List Num :=
  ((List.range ys.length).filter fun i => i % n = n - 1).map fun i => ys.getD i 0

/-- `decimate` (R243): every input sample passes the DEC filter. -/
def decimate (ins : List Num) (s : State) : List Num × State :=
  let (ys, s₁) := runList (fun _ x s => firStep .dec x s) 0 ins s
  (keepLast s.par.decimationRate ys, s₁)

/-- The high-pass stage (R242, R244). -/
def highPass (xs : List Num) (s : State) : List Num × State :=
  if s.par.hpfEn then runList (fun _ x s => iirStep x s) 0 xs s else (xs, s)

/-- One decimated sample with the modulator's sample added (R245). -/
def injectSample (_ : Nat) (x : Num) (s : State) : Num × State :=
  let (m, s) := modBit s
  (numAdd s.cfg.num x m, s)

/-- The injection stage (R242, R245). -/
def inject (xs : List Num) (s : State) : List Num × State :=
  if s.par.telemEn then runList injectSample 0 xs s else (xs, s)

/-- The zero-stuffed sequence, gain `N` before the filter (R246). -/
def zeroStuff (f : NumFormat) (n len : Nat) (xs : List Num) : List Num :=
  (List.range len).map fun j => if j % n = 0 then numMul f (xs.getD (j / n) 0) (n : Rat) else 0

/-- One output sample of the interpolation (R246). -/
def interpSample (j : Nat) (v : Num) (s : State) : Num × State :=
  let (o, s) := firStep .int v s
  (o, clipCheck j o s)

/-- `interpolate` (R246, R247). -/
def interpolate (xs : List Num) (s : State) : List Num × State :=
  runList interpSample 0
    (zeroStuff s.cfg.num s.par.decimationRate s.par.periodLen xs) s

/-- `run_duv` (R242): the four stages, each over the whole buffer. -/
def runDuv (ins : List Num) (s : State) : List Num × State :=
  let (xs₁, s₁) := decimate ins s
  let (xs₂, s₂) := highPass xs₁ s₁
  let (xs₃, s₃) := inject xs₂ s₂
  interpolate xs₃ s₃

/-- Step 6 of R236. -/
def runMode (ins : List Num) (s : State) : List Num × State :=
  match resolveMode s.par with
  | .tone => runTone s
  | .measure => runMeasure ins s
  | .hs => runHs s
  | .duv => runDuv ins s

/-! ## Loop timing -/

/-- The accumulators after one more duration (R252). -/
def ltAdd (p : ProcRegs) (dt : Duration) : ProcRegs :=
  { p with
    ltMax := if p.ltMax < dt then dt else p.ltMax
    ltMin := match p.ltMin with
      | none => some dt
      | some m => if dt < m then some dt else some m
    ltTotal := p.ltTotal + dt
    ltCount := p.ltCount + 1 }

/-- The accumulators at their reset values (R252). -/
def ltClear (p : ProcRegs) : ProcRegs :=
  { p with ltMax := 0, ltMin := none, ltTotal := 0, ltCount := 0 }

/-- The real-time deadline `PERIOD_LEN / SAMPLE_RATE` seconds, exact (R252). -/
def deadline (r : ParRegs) : Duration := (r.periodLen : Rat) / (r.sampleRate : Rat)

/-- `loop_timing(dt)` (R252). -/
def loopTiming (dt : Duration) (s : State) : State :=
  let p := ltAdd s.proc dt
  if p.ltCount = s.cfg.ltWindow then
    let s := if deadline s.par < p.ltMax then s.emit (.deadlineWarn p.ltMax) else s
    s.setProc (ltClear p)
  else s.setProc p

/-! ## The operation -/

/-- Steps 5 to 7 of an accepted period (R236). -/
def periodRun (p : Port) (ins : List Num) (dt : Duration) (s : State) : State :=
  let (out, s) := runMode ins (enterMode s)
  loopTiming dt (s.pushAll p (out.map Item.num))

/-- `PROC.PERIOD frameCount` on a port (R236). -/
def procPeriodOn (p : Port) (frameCount : BitVec 20) (s : State) : State :=
  accept p (.procPeriod frameCount) s fun items s =>
    if frameCount.toNat ≠ s.par.periodLen then raisePeriodMismatch p frameCount.toNat s
    else match configFailure s with
      | some info => refuse p (.cfgInvalid info) s
      | none =>
        periodRun p ((items.take frameCount.toNat).map Item.numVal)
          (operand items frameCount.toNat).durationVal s

/-- `PROC.PERIOD` (R236). -/
def execProcPeriod (frameCount : BitVec 20) (s : State) : Host.Outcome State Fault Refusal :=
  .next (procPeriodOn s.port frameCount s)

end Sys2Proof.Machine
end

