-- ==== Sys2Proof/Machine/Dispatch.lean ====
section
/-! DEFINITION. One arm per operation: the meaning of each instruction (spec R96). -/

namespace Sys2Proof.Machine

def exec (i : Instr) (s : State) : Host.Outcome State Fault Refusal :=
  match i with
  | .nop => Sys2Proof.Machine.execNop s
  | .oscInit => Sys2Proof.Machine.execOscInit s
  | .oscNext sel => Sys2Proof.Machine.execOscNext sel s
  | .firReset f => Sys2Proof.Machine.execFirReset f s
  | .firStep f => Sys2Proof.Machine.execFirStep f s
  | .firLoadc f index => Sys2Proof.Machine.execFirLoadc f index s
  | .firGenrc f norm => Sys2Proof.Machine.execFirGenrc f norm s
  | .firGenrrc f norm => Sys2Proof.Machine.execFirGenrrc f norm s
  | .iirReset => Sys2Proof.Machine.execIirReset s
  | .iirStep => Sys2Proof.Machine.execIirStep s
  | .iirLoadc sec cid => Sys2Proof.Machine.execIirLoadc sec cid s
  | .iirSetn n => Sys2Proof.Machine.execIirSetn n s
  | .rsClear => Sys2Proof.Machine.execRsClear s
  | .rsUpdate d => Sys2Proof.Machine.execRsUpdate d s
  | .rsRead index => Sys2Proof.Machine.execRsRead index s
  | .encReset => Sys2Proof.Machine.execEncReset s
  | .encByte d => Sys2Proof.Machine.execEncByte d s
  | .encSync => Sys2Proof.Machine.execEncSync s
  | .frameEncode => Sys2Proof.Machine.execFrameEncode s
  | .frameFill => Sys2Proof.Machine.execFrameFill s
  | .frameRdy => Sys2Proof.Machine.execFrameRdy s
  | .frameReq => Sys2Proof.Machine.execFrameReq s
  | .frameNextbit => Sys2Proof.Machine.execFrameNextbit s
  | .framePoll => Sys2Proof.Machine.execFramePoll s
  | .modInit => Sys2Proof.Machine.execModInit s
  | .modBit => Sys2Proof.Machine.execModBit s
  | .procPeriod frameCount => Sys2Proof.Machine.execProcPeriod frameCount s
  | .parGet reg => Sys2Proof.Machine.execParGet reg s
  | .parSet reg => Sys2Proof.Machine.execParSet reg s
  | .faultGet => Sys2Proof.Machine.execFaultGet s

end Sys2Proof.Machine
end

