-- ==== Sys2Proof/Machine/Sequencer.lean ====
section
/-! DEFINITION. Which port moves and what it moves: beginning a transaction, resuming a FRAME.FILL,
reset (spec R69, R90, R102, R310; log entries 7 to 10), and the delivery of one command word. -/

namespace Sys2Proof.Machine

/-- Run a transaction whose frame is in `DIN`: a word that is no operation is refused with
`CMD_ILLEGAL(word)` (R104, R282), an operation is executed. -/
def runWord (p : Port) (w : Word) (s : State) : Host.Outcome State Fault Refusal :=
  match decode w with
  | .error _ => .next (refuse p (.cmdIllegal w) s)
  | .ok i => exec i s

/-- Begin the next transaction delivered to a port; with none, the port idles (log entry 15). -/
def portMove (p : Port) (s : State) : Host.Outcome State Fault Refusal :=
  match (s.io p).inbox with
  | [] => .next s
  | t :: rest => runWord p t.word (s.deliver p t rest)

/-- A move of the FILL port: resume the FRAME.FILL in progress, else begin a transaction. -/
def fillPortMove (s : State) : Host.Outcome State Fault Refusal :=
  match activeJob s with
  | some j => .next (fillResume j s)
  | none => portMove .fill s

/-- The cold reset (R310): every register at its reset value; what the environment has not yet
delivered is not the block's and stays. -/
def coldReset (s : State) : State :=
  { State.resetOf s.cfg with
    cmd := { PortIO.empty with inbox := s.cmd.inbox }
    fill := { PortIO.empty with inbox := s.fill.inbox }
    turns := s.turns }

/-- The move the schedule asks for; with an empty schedule the CMD port moves while it has a
transaction, else the FILL port (log entry 7). -/
def nextMove (s : State) : Host.Outcome State Fault Refusal :=
  match s.turns with
  | .cmd :: rest => portMove .cmd (s.setTurns rest)
  | .fill :: rest => fillPortMove (s.setTurns rest)
  | .reset :: rest => .next (coldReset (s.setTurns rest))
  | [] => if s.cmd.inbox = [] then fillPortMove s else portMove .cmd s

/-- A port that allows a command (R96): the FILL port for the operations only FILLER may issue. -/
def naturalPort (w : Word) : Port :=
  match decode w with
  | .error _ => .cmd
  | .ok i => if portAllows .cmd i then .cmd else .fill

/-- The transaction of a command word alone: operands of zeros of the row's types (log entry 11). -/
def wordAlone (c : Config) (w : Word) : Txn :=
  match decode w with
  | .error _ => { word := w, frame := [] }
  | .ok i => { word := w, frame := (rowDin c i).map ItemKind.zero }

/-- Deliver a command word so that the next step runs it. -/
def placeWord (s : State) (w : Word) : State :=
  let t := wordAlone s.cfg w
  match naturalPort w with
  | .cmd => { s with turns := .cmd :: s.turns, cmd := { s.cmd with inbox := t :: s.cmd.inbox } }
  | .fill =>
    { s with
      turns := .fill :: s.turns
      fill := { s.fill with inbox := t :: s.fill.inbox }
      fillJob := none }

end Sys2Proof.Machine
end

