-- ==== Sys2Proof/Machine/Step.lean ====
section
/-! DEFINITION. One step of the machine: one move of one port, or reset (spec R69, R310). -/

namespace Sys2Proof.Machine

/-- One step: the move the schedule asks for. -/
def step (s : State) : Host.Outcome State Fault Refusal := nextMove s

/-- `s` with the command word `w` (its bits above `nbits` zero) delivered so that the very next step
begins it (log entry 11). -/
def State.withFetchWord (s : State) (nbits w : Nat) : State :=
  placeWord s (BitVec.ofNat 32 (w % 2 ^ nbits))

end Sys2Proof.Machine
end

