-- ==== Sys2Proof/Safety.lean ====
section
/-! DEFINITION. What a safe state of the block is: the facts the spec states of its registers between
any two atomic actions (spec 10_state.md, 20_memory.md sections 2 and 3, 60_exceptions.md section 2). -/

namespace Sys2Proof.Machine

/-- One FIR instance has the `L[f]` cells of R26 and R27. -/
def FirRegs.fits (x : FirRegs) (len : Nat) : Prop := x.coef.length = len ∧ x.hist.length = len

/-- `a3, a4, b3, b4` of a record read as zero (R29). -/
def IirCoefs.reservedZero (c : IirCoefs) : Prop := c.a3 = 0 ∧ c.a4 = 0 ∧ c.b3 = 0 ∧ c.b4 = 0

/-- Every array has the size R61 gives it, the configuration is one R6 allows, `IIR_NSEC` is unwritten
or a section count (R28), the reserved coefficients are zero (R29). -/
structure ShapeOk (s : State) : Prop where
  config : s.cfg.wf = true
  dec : s.firDec.fits s.cfg.lDec
  int : s.firInt.fits s.cfg.lInt
  bit : s.firBit.fits s.cfg.lBit
  coefs : s.iir.coefs.length = s.cfg.iirMaxSections
  regs : s.iir.regs.length = s.cfg.iirMaxSections
  nsec : ∀ n, s.iir.nsec = some n → 1 ≤ n ∧ n ≤ s.cfg.iirMaxSections
  reserved : ∀ c ∈ s.iir.coefs, c.reservedZero
  parity : s.enc.parity.length = s.cfg.parityLen
  buf0 : s.hand.buf0.length = s.cfg.frameLen
  buf1 : s.hand.buf1.length = s.cfg.frameLen

/-- The double-buffer discipline (R35, R65 to R68): `FILL_STATE` is FILLING exactly while a FRAME.FILL is
between its steps; the slot it fills is not the ready one; except in IDLE the active slot is the ready
one, so the slot being filled is never the one the iterator reads. -/
structure HandoffOk (s : State) : Prop where
  filling : s.hand.fillState = .filling ↔ s.fillJob.isSome = true
  claimed : ∀ slot, s.fillJob = some (.claimed slot) → slot = s.hand.ready.other
  written : ∀ slot, s.fillJob = some (.written slot) → slot = s.hand.ready.other
  latched : s.hand.fillState ≠ .idle → s.hand.active = s.hand.ready

/-- The bit iterator is inside its frame (R37), and in the initial sync word it is at word 0. -/
structure IterOk (s : State) : Prop where
  bits : s.iter.bitsSent ≤ 10
  words : s.iter.wordsSent < s.cfg.frameLen
  first : s.iter.firstPacket = true → s.iter.wordsSent = 0

/-- The parameter store holds legal values only (R40, R41). -/
structure ParamsOk (s : State) : Prop where
  sampleRate : 1 ≤ s.par.sampleRate ∧ s.par.sampleRate < 2 ^ 32
  bps : ∀ n, s.par.bps = some n → 1 ≤ n ∧ n < 2 ^ 32
  decimationRate : 1 ≤ s.par.decimationRate ∧ s.par.decimationRate < 2 ^ 16
  periodLen : 1 ≤ s.par.periodLen ∧ s.par.periodLen < 2 ^ 20
  testToneFreq : ∀ q, s.par.testToneFreq = some q → 0 ≤ q
  xrunCount : s.par.xrunCount < 2 ^ 32

/-- The modulator's counters (R38, R224): `SAMPLES_PER_BIT` is unwritten or positive and 32-bit; no more
samples of a bit are counted than the bit has; the run counters stay within 32 bits. -/
structure ModulatorOk (s : State) : Prop where
  samplesPerBit : ∀ n, s.modu.samplesPerBit = some n → 1 ≤ n ∧ n < 2 ^ 32
  samplesSent : s.modu.samplesSent ≤ max 1 (s.modu.samplesPerBit.getD 0)
  onesRun : s.modu.onesRun < 2 ^ 32
  zerosRun : s.modu.zerosRun < 2 ^ 32

/-- The period processor's accumulators are inside their windows and not negative (R39, R240, R252). -/
structure WindowsOk (s : State) : Prop where
  measWindow : 1 ≤ s.cfg.measWindow
  ltWindow : 1 ≤ s.cfg.ltWindow
  peak : 0 ≤ s.proc.peak
  measCount : s.proc.measCount < s.cfg.measWindow
  ltMax : 0 ≤ s.proc.ltMax
  ltMin : ∀ d, s.proc.ltMin = some d → 0 ≤ d
  ltTotal : 0 ≤ s.proc.ltTotal
  ltCount : s.proc.ltCount < s.cfg.ltWindow
  maxReg : 0 ≤ s.iir.maxReg

/-- The OR of the `FAULT` bits of a list of events (R276). -/
def faultOf (es : List Event) : BitVec 8 := es.foldl (fun b e => b ||| e.faultBit) 0

/-- How many `IIR_OVF` events a list holds. -/
def ovfCount (es : List Event) : Nat := es.countP fun e => decide (e = .iirOvf)

/-- The sticky registers tell what was emitted since reset (R42, R276, R278, R286): `FAULT` has the bit of
every event of `EVT` and no other; the block is halted exactly when a PERIOD_MISMATCH was emitted;
`IIR_OVF` was emitted once if it is logged, else never. -/
structure StickyOk (s : State) : Prop where
  fault : s.flt.fault = faultOf s.flt.evt
  halted : s.flt.halted = true ↔ ∃ n, .periodMismatch n ∈ s.flt.evt
  overflow : ovfCount s.flt.evt = s.iir.ovfLogged.toNat

/-- The oscillator's phase is in [0, 1) where no rounding acts (R24, R124). -/
def PhaseOk (s : State) : Prop := s.cfg.num = .exact → 0 ≤ s.osc.phase ∧ s.osc.phase < 1

/-- The facts together. -/
structure SafeState (s : State) : Prop where
  shape : ShapeOk s
  handoff : HandoffOk s
  iter : IterOk s
  params : ParamsOk s
  modulator : ModulatorOk s
  windows : WindowsOk s
  sticky : StickyOk s
  phase : PhaseOk s

/-! ## How a command arrives and ends -/

/-- The current command arrived on port `p` with the DIN frame `frame`, and the block is not halted
(R90, R102, R281). -/
structure Issued (p : Port) (frame : List Item) (s : State) : Prop where
  port : s.port = p
  din : (s.io p).din = frame
  running : s.flt.halted = false

/-- The command ends in a refusal with the event `e` (R13, R282, R283). -/
def Refuses (i : Instr) (s : State) (e : Event) : Prop := exec i s = .next (refuse s.port e s)

/-! ## Sequences of calls -/

/-- The bits that `n` calls of `next_bit()` return with nothing between them, and the state after
(R207). -/
def takeBits : Nat → State → List Bool × State
  | 0, s => ([], s)
  | n + 1, s =>
    let (b, s₁) := nextBit id s
    let (bs, s₂) := takeBits n s₁
    (b :: bs, s₂)

/-- The bits of a 10-bit word in line order, bit 9 first (R63). -/
def lineBits (w : Word10) : List Bool := (List.range 10).map fun k => w.getLsbD (9 - k)

/-- The samples that `n` calls of `mod_bit()` return, and the state after (R224). -/
def takeSamples (n : Nat) (s : State) : List Num × State :=
  runList (fun _ _ s => modBit s) 0 (List.replicate n ()) s

/-- The samples that `fir_step(f, x)` returns for the inputs in order, and the state after (R133). -/
def takeFir (f : FirInst) (xs : List Num) (s : State) : List Num × State :=
  runList (fun _ x s => firStep f x s) 0 xs s

/-- The samples that `iir_step(x)` returns for the inputs in order, and the state after (R153). -/
def takeIir (xs : List Num) (s : State) : List Num × State :=
  runList (fun _ x s => iirStep x s) 0 xs s

end Sys2Proof.Machine
end

