-- ==== Sys2Proof/Certificates/Slice0/Obligations.lean ====
section
/-! DEFINITION. The statements about telem_radio CORE. Each says what an operation, a procedure or a
step does, with everything it leaves unchanged: a record update `{ s with … }` names all that changes.
`refuse p e s` is what RefusalEffect
says. Where a statement needs `s.cfg.wf`, it is the configuration of
R6; where it needs `CFG.NUM = exact`, it says so. -/

section

open Sys2Proof Sys2Proof.Machine

/-! ## Encoding -/

/-- R91, R96, R100, R101: the word of every operation, with every operand, decodes to that operation. -/
def Obligations.DecodeEncode : Prop := ∀ i : Instr, decode (encode i) = .ok i

/-- R92, R96: a word that decodes to an operation is that operation's one word; no bit is ignored. -/
def Obligations.EncodeDecode : Prop := ∀ (w : Word) (i : Instr), decode w = .ok i → encode i = w

/-- R96, R100, R101, R104: exactly these words are operations, whatever the port and the state. -/
def Obligations.DecodeDomain : Prop :=
  ∀ w : Word, (∃ i, decode w = .ok i) ↔
    let op := w.toNat / 2 ^ 24
    let u := w.toNat / 2 ^ 20 % 16
    let imm := w.toNat % 2 ^ 20
    (op ∈ [0x00, 0x08, 0x20, 0x21, 0x30, 0x40, 0x42, 0x50, 0x51, 0x52, 0x53, 0x54, 0x55, 0x60, 0x61, 0x82]
        ∧ u = 0 ∧ imm = 0) ∨
    (op = 0x09 ∧ u = 0 ∧ imm < 2) ∨
    (op ∈ [0x10, 0x11] ∧ u ≤ 2 ∧ imm = 0) ∨
    (op = 0x12 ∧ u ≤ 2) ∨
    (op ∈ [0x13, 0x14] ∧ u ≤ 2 ∧ imm < 2) ∨
    (op = 0x22 ∧ u = 0 ∧ imm < 256 ∧ imm % 16 ≤ 9) ∨
    (op ∈ [0x23, 0x70] ∧ u = 0) ∨
    (op ∈ [0x31, 0x41] ∧ u = 0 ∧ imm < 256) ∨
    (op = 0x32 ∧ u = 0 ∧ imm < 32) ∨
    (op ∈ [0x80, 0x81] ∧ u = 0 ∧ (imm ≤ 18 ∨ (32 ≤ imm ∧ imm ≤ 39)))

/-- R107: the encoding examples, both ways. -/
def Obligations.EncodingExamples : Prop :=
  ∀ x ∈ ([(.firStep .bit, 0x11200000), (.firLoadc .dec 3, 0x12000003), (.firGenrc .int .l2, 0x13100001),
      (.iirLoadc 2 .b1, 0x22000024), (.rsUpdate 0x51, 0x31000051), (.encSync, 0x42000000),
      (.procPeriod 480, 0x700001E0), (.parSet .bps, 0x81000009), (.faultGet, 0x82000000)]
      : List (Instr × Word)),
    encode x.1 = x.2 ∧ decode x.2 = .ok x.1

/-! ## Refusals, legality, halting -/

/-- R13, R276, R282, R283: what a refused command leaves. The event is appended, its `FAULT` bit set, the
frame gone; nothing else of the state changes. (R276: event code `n` sets bit `n - 1`; the two refusal
events are codes 7 and 8.) -/
def Obligations.RefusalEffect : Prop :=
  ∀ (s : State) (e : Event) (bit : BitVec 8),
    ((∃ w, e = .cmdIllegal w) ∧ bit = 0x40) ∨ ((∃ n, e = .cfgInvalid n) ∧ bit = 0x80) →
    refuse .cmd e s =
      { s with
        flt := { evt := s.flt.evt ++ [e], fault := s.flt.fault ||| bit, halted := s.flt.halted }
        cmd := { s.cmd with din := [] } } ∧
    refuse .fill e s =
      { s with
        flt := { evt := s.flt.evt ++ [e], fault := s.flt.fault ||| bit, halted := s.flt.halted }
        fill := { s.fill with din := [] } }

/-- R104, R282: which commands are legal, said in full (the field bounds under the configuration, the port,
the halted state, FRAME.FILL's request, the DIN frame of the row); every other one is refused with
`CMD_ILLEGAL` of its word. -/
def Obligations.IllegalRefused : Prop :=
  ∀ (i : Instr) (s : State),
    let op := (opOf (encode i)).toNat
    let fields : Prop := match i with
      | .firLoadc .dec k => k.toNat < s.cfg.lDec
      | .firLoadc .int k => k.toNat < s.cfg.lInt
      | .firLoadc .bit k => k.toNat < s.cfg.lBit
      | .iirLoadc sec _ => sec.toNat < s.cfg.iirMaxSections
      | .iirSetn n => 1 ≤ n.toNat ∧ n.toNat ≤ s.cfg.iirMaxSections
      | .rsRead k => k.toNat < s.cfg.parityLen
      | .parSet r => r.code.toNat < 32
      | _ => True
    let port : Prop :=
      (s.port = .cmd → op ∉ [0x30, 0x31, 0x32, 0x40, 0x41, 0x42, 0x50, 0x51, 0x55]) ∧
      (s.port = .fill →
        op ∈ [0x00, 0x30, 0x31, 0x32, 0x40, 0x41, 0x42, 0x50, 0x51, 0x52, 0x55, 0x82])
    let running : Prop := s.flt.halted = true → op ∈ [0x00, 0x80, 0x82]
    let requested : Prop := i = .frameFill → s.hand.fillState = .requested
    let number (x : Item) : Prop := ∃ q, x = .num q ∧ rnd s.cfg.num q = q
    let int (x : Item) : Prop := ∃ n, x = .int n ∧ n < 2 ^ 32
    let duration (x : Item) : Prop := ∃ d, x = .duration d ∧ 0 ≤ d
    let byte (x : Item) : Prop := ∃ b, x = .byte b
    let din := (s.io s.port).din
    let frame : Prop := match i with
      | .firStep _ | .firLoadc _ _ | .iirStep | .iirLoadc _ _ => ∃ x, din = [x] ∧ number x
      | .firGenrc _ _ | .firGenrrc _ _ =>
        ∃ x y z, din = [x, y, z] ∧ number x ∧ number y ∧ number z
      | .frameEncode | .frameFill => din.length = s.cfg.dataLen ∧ ∀ x ∈ din, byte x
      | .modInit => ∃ x y, din = [x, y] ∧ int x ∧ int y
      | .procPeriod n =>
        ∃ xs x, din = xs ++ [x] ∧ xs.length = n.toNat ∧ (∀ y ∈ xs, number y) ∧ duration x
      | .parSet r => ∃ x, din = [x] ∧ if r.code.toNat ∈ [6, 12, 13, 14, 17] then number x else int x
      | _ => din = []
    (legal s.port i s = true ↔ fields ∧ port ∧ running ∧ requested ∧ frame) ∧
    (¬ (fields ∧ port ∧ running ∧ requested ∧ frame) → Refuses i s (.cmdIllegal (encode i)))

/-- R96, R292: the port column. Exactly these operations are allowed on the FILL port, and exactly these on
the CMD port; on the other port each is refused. -/
def Obligations.PortTable : Prop :=
  ∀ (i : Instr) (s : State),
    let op := (opOf (encode i)).toNat
    (s.port = .fill →
      op ∉ [0x00, 0x30, 0x31, 0x32, 0x40, 0x41, 0x42, 0x50, 0x51, 0x52, 0x55, 0x82] →
      Refuses i s (.cmdIllegal (encode i))) ∧
    (s.port = .cmd → op ∈ [0x30, 0x31, 0x32, 0x40, 0x41, 0x42, 0x50, 0x51, 0x55] →
      Refuses i s (.cmdIllegal (encode i)))

/-- R286: a period of the wrong size is fatal. The event and `HALTED` are all it leaves, and no other
operation sets `HALTED`. -/
def Obligations.PeriodMismatchHalts : Prop :=
  (∀ (n : BitVec 20) (s : State),
    legal s.port (.procPeriod n) s = true → n.toNat ≠ s.par.periodLen →
    exec (.procPeriod n) s =
      .next { s with
        flt := { evt := s.flt.evt ++ [.periodMismatch n.toNat], fault := s.flt.fault ||| 0x20,
                 halted := true }
        cmd := { s.cmd with din := [] } }) ∧
  (∀ (i : Instr) (s t : State), exec i s = .next t → s.flt.halted = false → t.flt.halted = true →
    ∃ n : BitVec 20, i = .procPeriod n ∧ n.toNat ≠ s.par.periodLen)

/-- R281, with R310: while the block is halted no step but reset changes a register other than `EVT` and
`FAULT`, and none clears `HALTED`. That a FRAME.FILL in progress at the halt stays where it is, and does
not run to its end as R74 says of an accepted operation, is the model's reading of R281 (log entry 10). -/
def Obligations.HaltedFrozen : Prop :=
  ∀ s t : State, step s = .next t → s.flt.halted = true → (∀ rest, s.turns ≠ .reset :: rest) →
    t = { s with cmd := t.cmd, fill := t.fill, turns := t.turns, port := t.port, flt := t.flt } ∧
      t.flt.halted = true

/-! ## Reset -/

/-- R58 (with the reset column of R40): the value of every register after reset, for a block built with any
configuration. -/
def Obligations.ResetValues : Prop :=
  ∀ c : Config,
    let s := State.resetOf c
    (s.cmd.din = [] ∧ s.cmd.dout = [] ∧ s.fill.din = [] ∧ s.fill.dout = [] ∧ s.flt.evt = []) ∧
    (s.osc.phase = 0 ∧ s.osc.inc = 0) ∧
    (s.firDec.coef = (List.range c.lDec).map (fun i => c.coefDec[i]?) ∧
      s.firInt.coef = (List.range c.lInt).map (fun i => c.coefInt[i]?) ∧
      s.firBit.coef = (List.range c.lBit).map (fun i => c.coefBit[i]?)) ∧
    (∀ f, (s.fir f).hist = List.replicate (c.firLen f) 0) ∧
    (s.iir.nsec = none ∧ s.iir.coefs = List.replicate c.iirMaxSections
        ⟨none, none, none, none, none, none, 0, 0, 0, 0⟩ ∧
      s.iir.regs = List.replicate c.iirMaxSections ⟨0, 0, 0, 0⟩ ∧ s.iir.maxReg = 0 ∧
      s.iir.ovfLogged = false) ∧
    (s.enc.parity = List.replicate c.parityLen 0 ∧ s.enc.rd = .neg) ∧
    (s.hand.buf0 = List.replicate c.frameLen 0 ∧ s.hand.buf1 = List.replicate c.frameLen 0 ∧
      s.hand.ready = .zero ∧ s.hand.fillState = .requested ∧ s.hand.active = .zero) ∧
    (s.iter.firstPacket = true ∧ s.iter.bitsSent = 0 ∧ s.iter.wordsSent = 0) ∧
    (s.modu.state = .starting ∧ s.modu.currentBit = false ∧ s.modu.samplesSent = 0 ∧
      s.modu.onesRun = 0 ∧ s.modu.zerosRun = 0 ∧ s.modu.samplesPerBit = none) ∧
    (s.proc.keyValid = false ∧ s.proc.curKey = none ∧ s.proc.clipLogged = false ∧ s.proc.peak = 0 ∧
      s.proc.measCount = 0 ∧ s.proc.ltMax = 0 ∧ s.proc.ltMin = none ∧ s.proc.ltTotal = 0 ∧
      s.proc.ltCount = 0) ∧
    (s.par.hpfEn = false ∧ s.par.bitLpfEn = false ∧ s.par.telemEn = false ∧
      s.par.highSpeedEn = false ∧ s.par.testPatternEn = false ∧ s.par.testToneEn = false ∧
      s.par.testToneFreq = none ∧ s.par.toneMeasEn = false ∧ s.par.sampleRate = 48000 ∧
      s.par.bps = none ∧ s.par.decimationRate = 4 ∧ s.par.rampEn = false ∧ s.par.rampAmt = none ∧
      s.par.oneValue = none ∧ s.par.zeroValue = none ∧ s.par.periodLen = 480 ∧
      s.par.toneKind = .analog ∧ s.par.toneLevel = 1 ∧ s.par.xrunCount = 0) ∧
    (s.flt.fault = 0 ∧ s.flt.halted = false)

/-- R310: the reset input, whatever is in progress, leaves every register at its reset value and the
configuration as it was. (The transactions not yet begun and the schedule are the environment's: log
entry 7.) -/
def Obligations.ResetStep : Prop :=
  ∀ (s : State) (rest : List Turn), s.turns = .reset :: rest →
    step s = .next { State.resetOf s.cfg with
      cmd := { inbox := s.cmd.inbox, din := [], dout := [] }
      fill := { inbox := s.fill.inbox, din := [], dout := [] }
      turns := rest }

/-! ## Steps -/

/-- A step runs the operation that the next word of the moving port decodes to, with the word's frame in
`DIN` (R69, R90, R102). The FILL port begins no operation while a FRAME.FILL of its own is in progress,
unless the block is halted (log entry 10). The order in which the ports move is the schedule's (log
entry 7). -/
def Obligations.StepRunsCommand : Prop :=
  ∀ (s : State) (x : Txn) (more : List Txn) (rest : List Turn) (i : Instr), decode x.word = .ok i →
    let free : Prop := s.fillJob = none ∨ s.flt.halted = true
    (s.turns = .cmd :: rest → s.cmd.inbox = x :: more →
      step s = exec i { s with
        turns := rest, port := .cmd, cmd := { s.cmd with inbox := more, din := x.frame } }) ∧
    (s.turns = .fill :: rest → free → s.fill.inbox = x :: more →
      step s = exec i { s with
        turns := rest, port := .fill, fill := { s.fill with inbox := more, din := x.frame } }) ∧
    (s.turns = [] → s.cmd.inbox = x :: more →
      step s = exec i { s with
        port := .cmd, cmd := { s.cmd with inbox := more, din := x.frame } }) ∧
    (s.turns = [] → s.cmd.inbox = [] → free → s.fill.inbox = x :: more →
      step s = exec i { s with
        port := .fill, fill := { s.fill with inbox := more, din := x.frame } })

/-- R104, R282: a step on a word that is no operation refuses it with `CMD_ILLEGAL` of that word. (When the
FILL port begins a word, and the order of the ports: log entries 10 and 7.) -/
def Obligations.StepRefusesOtherWords : Prop :=
  ∀ (s : State) (x : Txn) (more : List Txn) (rest : List Turn) (e : DecodeError),
    decode x.word = .error e →
    let free : Prop := s.fillJob = none ∨ s.flt.halted = true
    let flt : FaultRegs := { s.flt with
      evt := s.flt.evt ++ [.cmdIllegal x.word], fault := s.flt.fault ||| 0x40 }
    (s.turns = .cmd :: rest → s.cmd.inbox = x :: more →
      step s = .next { s with
        turns := rest, port := .cmd, cmd := { s.cmd with inbox := more, din := [] }, flt := flt }) ∧
    (s.turns = .fill :: rest → free → s.fill.inbox = x :: more →
      step s = .next { s with
        turns := rest, port := .fill, fill := { s.fill with inbox := more, din := [] }, flt := flt }) ∧
    (s.turns = [] → s.cmd.inbox = x :: more →
      step s = .next { s with
        port := .cmd, cmd := { s.cmd with inbox := more, din := [] }, flt := flt }) ∧
    (s.turns = [] → s.cmd.inbox = [] → free → s.fill.inbox = x :: more →
      step s = .next { s with
        port := .fill, fill := { s.fill with inbox := more, din := [] }, flt := flt })

/-- R6, R70: every step is enabled, in every state, reached or not, and none changes the configuration. -/
def Obligations.StepTotal : Prop := ∀ s : State, ∃ t, step s = .next t ∧ t.cfg = s.cfg

/-- R312 (its last sentence) with R21 and R42: no step but reset clears a bit of `FAULT`, clears `HALTED` or
`IIR_OVF_LOGGED`, or makes a written coefficient cell, section count, rate or parameter unwritten. That no
step takes an event out of `EVT` either is the model's choice (log entry 12). -/
def Obligations.OnlyResetClears : Prop :=
  ∀ s t : State, step s = .next t → (∀ rest, s.turns ≠ .reset :: rest) →
    s.flt.evt <+: t.flt.evt ∧
    s.flt.fault &&& t.flt.fault = s.flt.fault ∧
    (s.flt.halted = true → t.flt.halted = true) ∧
    (s.iir.ovfLogged = true → t.iir.ovfLogged = true) ∧
    (ShapeOk s → ∀ (f : FirInst) (k : Nat) (v : Rat), (s.fir f).coef[k]? = some (some v) →
      ∃ v', (t.fir f).coef[k]? = some (some v')) ∧
    (∀ (k : Nat) (c : IirCoefs), s.iir.coefs[k]? = some c → ∃ c', t.iir.coefs[k]? = some c' ∧
      (c.a0.isSome = true → c'.a0.isSome = true) ∧ (c.a1.isSome = true → c'.a1.isSome = true) ∧
      (c.a2.isSome = true → c'.a2.isSome = true) ∧ (c.b0.isSome = true → c'.b0.isSome = true) ∧
      (c.b1.isSome = true → c'.b1.isSome = true) ∧ (c.b2.isSome = true → c'.b2.isSome = true)) ∧
    (s.iir.nsec.isSome = true → t.iir.nsec.isSome = true) ∧
    (s.modu.samplesPerBit.isSome = true → t.modu.samplesPerBit.isSome = true) ∧
    (s.par.bps.isSome = true → t.par.bps.isSome = true) ∧
    (s.par.testToneFreq.isSome = true → t.par.testToneFreq.isSome = true) ∧
    (s.par.rampAmt.isSome = true → t.par.rampAmt.isSome = true) ∧
    (s.par.oneValue.isSome = true → t.par.oneValue.isSome = true) ∧
    (s.par.zeroValue.isSome = true → t.par.zeroValue.isSome = true)

/-! ## Invariants -/

/-- R6, R26 to R35, R61: array sizes, section count and reserved coefficients are kept by every step. -/
def Obligations.ShapeKept : Prop := ∀ s t : State, ShapeOk s → step s = .next t → ShapeOk t

/-- R68: the slot exclusion invariant holds after reset and is kept by every step; with it, whenever FILLER
is between the claim and the publish step, `ACTIVE_INDEX = READY_INDEX`, and the slot being written,
`1 - READY_INDEX`, is not the slot AUDIO reads. -/
def Obligations.SlotExclusion : Prop :=
  (∀ c : Config, HandoffOk (State.resetOf c)) ∧
  (∀ s t : State, HandoffOk s → step s = .next t → HandoffOk t) ∧
  (∀ (s : State) (slot : Slot), HandoffOk s →
    (s.fillJob = some (.claimed slot) ∨ s.fillJob = some (.written slot)) →
    s.hand.active = s.hand.ready ∧ slot = s.hand.ready.other ∧ slot ≠ s.hand.active)

/-- R17, R24, R31, R37, R39, R124: every step keeps the bit iterator inside its frame, the windows and
accumulators of the period processor and the IIR tracker within their bounds, and, with exact numbers, the
oscillator's phase in [0, 1). -/
def Obligations.CountersKept : Prop :=
  ∀ s t : State, step s = .next t →
    (IterOk s → IterOk t) ∧ (WindowsOk s → WindowsOk t) ∧ (PhaseOk s → PhaseOk t)

/-- R17, R38, R40, R224: every step keeps legal values in the parameter store and, with them, the
modulator's counters within their bounds. -/
def Obligations.ParametersKept : Prop :=
  ∀ s t : State, step s = .next t → ParamsOk s →
    ParamsOk t ∧ (ModulatorOk s → ModulatorOk t)

/-- R42, R264, R276, R278, R286: `FAULT` tells exactly the events emitted since reset, `HALTED` is 1 exactly
when one was PERIOD_MISMATCH, and `IIR_OVF` was emitted at most once. (`EVT` holds every event since
reset: log entry 12.) -/
def Obligations.StickyKept : Prop := ∀ s t : State, StickyOk s → step s = .next t → StickyOk t

/-- The reset state of a block built with any configuration R6 allows meets every invariant above. -/
def Obligations.ResetSafe : Prop := ∀ c : Config, c.wf = true → SafeState (State.resetOf c)

/-! ## Isolation of the two agents -/

/-- R34, R67 to R69, R171, R295: a move of the FILL port, scheduled or with an empty schedule, touches no
register of the CMD side, and (in a state that keeps the discipline of R68) never writes the slot the
iterator reads. So do the moves FILLER makes at an interleaving point inside MOD.BIT and PROC.PERIOD (R69
(c)): each is the FILL port's own move, as many as the schedule puts there. (The schedule as data and where
its entries are used are the model's: log entries 7 and 9.) -/
def Obligations.FillMovesAreIsolated : Prop :=
  let isolated (s t : State) : Prop :=
    t.cfg = s.cfg ∧ t.cmd = s.cmd ∧ t.osc = s.osc ∧ t.firDec = s.firDec ∧ t.firInt = s.firInt ∧
      t.firBit = s.firBit ∧ t.iir = s.iir ∧ t.iter = s.iter ∧ t.modu = s.modu ∧ t.proc = s.proc ∧
      t.par = s.par ∧ t.hand.active = s.hand.active ∧ t.flt.halted = s.flt.halted ∧
      (HandoffOk s → t.hand.buf s.hand.active = s.hand.buf s.hand.active)
  (∀ (s t : State) (rest : List Turn), s.turns = .fill :: rest → step s = .next t → isolated s t) ∧
  (∀ s t : State, s.turns = [] → s.cmd.inbox = [] → step s = .next t → isolated s t) ∧
  (∀ s : State, isolated s (interleave s) ∧ (interleave s).port = s.port) ∧
  (∀ (s t : State) (rest : List Turn), s.turns = .fill :: rest → step s = .next t →
    interleave s = interleave { t with port := s.port }) ∧
  (∀ (s : State) (rest : List Turn), s.turns = .cmd :: rest → interleave s = { s with turns := rest }) ∧
  (∀ s : State, (s.turns = [] ∨ ∃ rest, s.turns = .reset :: rest) → interleave s = s)

/-- R61, R171, R295: an operation of the CMD port with nothing interleaved touches no register of FILLER:
`PARITY`, `RD`, both slots, `READY_INDEX`; and it leaves `FILL_STATE` alone or turns IDLE into REQUESTED. -/
def Obligations.CmdMovesAreIsolated : Prop :=
  ∀ (i : Instr) (s t : State), s.port = .cmd → s.turns = [] → exec i s = .next t →
    t.fill = s.fill ∧ t.enc = s.enc ∧ t.hand.buf0 = s.hand.buf0 ∧ t.hand.buf1 = s.hand.buf1 ∧
      t.hand.ready = s.hand.ready ∧ t.fillJob = s.fillJob ∧
      (t.hand.fillState = s.hand.fillState ∨
        (s.hand.fillState = .idle ∧ t.hand.fillState = .requested))

/-! ## System and parameter operations -/

/-- R105: `NOP`, on either port, halted or not, leaves all state unchanged; its one word is 0: a word with
op 0 and any other field set, or a frame of operands, is refused with `CMD_ILLEGAL`. -/
def Obligations.NopResult : Prop :=
  (∀ s : State, (s.io s.port).din = [] → exec .nop s = .next s) ∧
  decode 0x00000000 = .ok .nop ∧
  (∀ (p : Port) (w : Word) (s : State), opOf w = 0 → (unitOf w ≠ 0 ∨ immOf w ≠ 0) →
    runWord p w s = .next (refuse p (.cmdIllegal w) s)) ∧
  (∀ s : State, (s.io s.port).din ≠ [] → Refuses .nop s (.cmdIllegal 0))

/-- R40, R261: `PAR.GET` pushes the register's value, halted or not, and has no other effect; an unwritten
register is refused with its number. The value of each of the 27 registers, the read-only ones (32 to 39)
among them, is written out; a bool reads as 0 or 1. -/
def Obligations.ParGetResult : Prop :=
  ∀ (s : State) (r : ParReg), s.port = .cmd → s.cmd.din = [] →
    let flag (b : Bool) : Option Item := some (.int (if b then 1 else 0))
    let value : Option Item := match r with
      | .hpfEn => flag s.par.hpfEn
      | .bitLpfEn => flag s.par.bitLpfEn
      | .telemEn => flag s.par.telemEn
      | .highSpeedEn => flag s.par.highSpeedEn
      | .testPatternEn => flag s.par.testPatternEn
      | .testToneEn => flag s.par.testToneEn
      | .testToneFreq => s.par.testToneFreq.map .num
      | .toneMeasEn => flag s.par.toneMeasEn
      | .sampleRate => some (.int s.par.sampleRate)
      | .bps => s.par.bps.map .int
      | .decimationRate => some (.int s.par.decimationRate)
      | .rampEn => flag s.par.rampEn
      | .rampAmt => s.par.rampAmt.map .num
      | .oneValue => s.par.oneValue.map .num
      | .zeroValue => s.par.zeroValue.map .num
      | .periodLen => some (.int s.par.periodLen)
      | .toneKind => flag (decide (s.par.toneKind = .digital))
      | .toneLevel => some (.num s.par.toneLevel)
      | .xrunCount => some (.int s.par.xrunCount)
      | .samplesPerBit => s.modu.samplesPerBit.map .int
      | .readyIndex => some (.bit (decide (s.hand.ready = .one)))
      | .peak => some (.num s.proc.peak)
      | .ltMax => some (.duration s.proc.ltMax)
      | .ltMin => if let some d := s.proc.ltMin then some (.duration d) else some .noDuration
      | .ltTotal => some (.duration s.proc.ltTotal)
      | .ltCount => some (.int s.proc.ltCount)
      | .curMode => some (.int (match s.proc.curKey.map ModeKey.mode with
        | some .tone => 0
        | some .measure => 1
        | some .hs => 2
        | some .duv => 3
        | none => 4))
    parRead s r = value ∧
    (∀ v, value = some v →
      exec (.parGet r) s = .next { s with cmd := { s.cmd with dout := s.cmd.dout ++ [v] } }) ∧
    (value = none → Refuses (.parGet r) s (.cfgInvalid r.code.toNat))

/-- R40, R262: `PAR.SET` of a legal value writes the store and nothing else; a value outside the legal
column is refused with the register's number. -/
def Obligations.ParSetResult : Prop :=
  ∀ (s : State) (r : ParReg) (v : Item), Issued .cmd [v] s → r.readOnly = false →
    v.hasKind s.cfg.num (parKind r) = true →
    (∀ p, parWrite s.par v r = some p →
      exec (.parSet r) s = .next { s with cmd := { s.cmd with din := [] }, par := p }) ∧
    (parWrite s.par v r = none → Refuses (.parSet r) s (.cfgInvalid r.code.toNat))

/-- R40, R262: the value a `PAR.SET` writes is what the register reads as, and no other register reads
differently; the write succeeds exactly for the legal values of R40. -/
def Obligations.ParSetReadsBack : Prop :=
  ∀ (s : State) (r : ParReg) (v : Item), r.readOnly = false →
    v.hasKind s.cfg.num (parKind r) = true →
    (∀ p, parWrite s.par v r = some p →
      parRead (s.setPar p) r = some v ∧ ∀ r', r' ≠ r → parRead (s.setPar p) r' = parRead s r') ∧
    ((parWrite s.par v r).isSome = true ↔
      match r with
      | .sampleRate | .bps => 1 ≤ v.intVal ∧ v.intVal < 2 ^ 32
      | .decimationRate => 1 ≤ v.intVal ∧ v.intVal < 2 ^ 16
      | .periodLen => 1 ≤ v.intVal ∧ v.intVal < 2 ^ 20
      | .testToneFreq => 0 ≤ v.numVal
      | .rampAmt | .oneValue | .zeroValue | .toneLevel | .xrunCount => True
      | _ => v.intVal ≤ 1)

/-- R261, R264, R206, R210, R169: the pure reads. Each pushes one item on its port's `DOUT` and changes
nothing else; `FAULT.GET` does so halted or not. -/
def Obligations.PureReads : Prop :=
  (∀ (s : State) (p : Port), s.port = p → (s.io p).din = [] →
    exec .faultGet s = .next (s.setIo p
      { s.io p with dout := (s.io p).dout ++ [.int s.flt.fault.toNat] })) ∧
  (∀ (s : State) (p : Port), Issued p [] s →
    exec .frameRdy s = .next (s.setIo p { s.io p with
      dout := (s.io p).dout ++ [.bit (decide (s.hand.ready = .one))] })) ∧
  (∀ s : State, Issued .fill [] s →
    exec .framePoll s = .next { s with fill := { s.fill with
      dout := s.fill.dout ++ [.bit (decide (s.hand.fillState = .requested))] } }) ∧
  (∀ (s : State) (k : BitVec 5), Issued .fill [] s → k.toNat < s.cfg.parityLen →
    exec (.rsRead k) s = .next { s with fill := { s.fill with
      dout := s.fill.dout ++ [.byte (s.enc.parity.getD k.toNat 0)] } })

/-! ## Oscillator -/

/-- R123, R124: the oscillator. `OSC.INIT` zeroes the phase and sets the increment to
`TEST_TONE_FREQ / SAMPLE_RATE`, one `rnd`; an unwritten frequency is refused with 6. `OSC.NEXT` advances and
wraps the phase, then pushes the entry of the selected table at the truncated index. (That the product in
the index is rounded by `NUM`, and that a negative index is 0, is the model's reading: log entry 6.) -/
def Obligations.OscillatorResults : Prop :=
  (∀ s : State, Issued .cmd [] s → 1 ≤ s.par.sampleRate →
    (∀ q, s.par.testToneFreq = some q →
      exec .oscInit s = .next { s with
        osc := { phase := 0, inc := rnd s.cfg.num (q / (s.par.sampleRate : Rat)) } }) ∧
    (s.par.testToneFreq = none → Refuses .oscInit s (.cfgInvalid 6))) ∧
  (∀ (s : State) (sel : TableSel), Issued .cmd [] s →
    let r := rnd s.cfg.num
    let p := r (s.osc.phase + s.osc.inc)
    let phase := r (p - (Rat.floor p : Rat))
    let k := (Rat.floor (r (phase * (s.cfg.tableLen : Rat)))).toNat
    let idx := if s.cfg.tableLen ≤ k then s.cfg.tableLen - 1 else k
    let table := match sel with
      | .sine => s.cfg.sinTab
      | .cosine => s.cfg.cosTab
    exec (.oscNext sel) s = .next { s with
      osc := { s.osc with phase := phase }
      cmd := { s.cmd with dout := s.cmd.dout ++ [.num (table.getD idx 0)] } })

/-! ## FIR engine -/

/-- R132, R152, R167, R192: the four partial resets, each with all it leaves unchanged. -/
def Obligations.PartialResets : Prop :=
  (∀ (s : State) (f : FirInst), Issued .cmd [] s → (s.fir f).hist.length = s.cfg.firLen f →
    exec (.firReset f) s = .next (s.setFir f
      { s.fir f with hist := List.replicate (s.cfg.firLen f) 0 })) ∧
  (∀ s : State, Issued .cmd [] s → s.iir.regs.length = s.cfg.iirMaxSections →
    exec .iirReset s = .next { s with iir := { s.iir with
      regs := List.replicate s.cfg.iirMaxSections ⟨0, 0, 0, 0⟩, maxReg := 0 } }) ∧
  (∀ s : State, Issued .fill [] s → s.enc.parity.length = s.cfg.parityLen →
    exec .rsClear s = .next { s with enc := { s.enc with
      parity := List.replicate s.cfg.parityLen 0 } }) ∧
  (∀ s : State, Issued .fill [] s →
    exec .encReset s = .next { s with enc := { s.enc with rd := .neg } })

/-- R133: `FIR.STEP` shifts the history, appends the sample and pushes the dot product, accumulated from 0
in ascending index with one `rnd` per product and per sum; an instance with an unwritten cell is
refused. `firStep` is the same call inside another operation. -/
def Obligations.FirStepResult : Prop :=
  ∀ (s : State) (f : FirInst) (x : Rat), Issued .cmd [.num x] s → isNum s.cfg.num x = true →
    (∀ c : List Rat, (s.fir f).coef = c.map some → (s.fir f).hist.length = c.length → c ≠ [] →
      let h := (s.fir f).hist.drop 1 ++ [x]
      let r := rnd s.cfg.num
      let y := (List.range c.length).foldl (fun acc i => r (acc + r (c.getD i 0 * h.getD i 0))) 0
      firStep f x s = (y, s.setFir f { s.fir f with hist := h }) ∧
      exec (.firStep f) s = .next
        (({ s with cmd := { s.cmd with din := [], dout := s.cmd.dout ++ [.num y] } } : State).setFir f
          { s.fir f with hist := h })) ∧
    (none ∈ (s.fir f).coef → Refuses (.firStep f) s (.cfgInvalid (0x100 + f.code.toNat)))

/-- R134: with exact numbers and a zero history, the impulse response is the coefficient array read from
its last index down, then zeros. -/
def Obligations.FirImpulseResponse : Prop :=
  ∀ (s : State) (f : FirInst) (c : List Rat) (n : Nat), s.cfg.num = .exact →
    (s.fir f).coef = c.map some → c ≠ [] → (s.fir f).hist = List.replicate c.length 0 →
    (takeFir f (1 :: List.replicate n 0) s).1 =
      (List.range (n + 1)).map fun k => if k < c.length then c.getD (c.length - 1 - k) 0 else 0

/-- R135: `FIR.LOADC` writes one coefficient cell and nothing else. -/
def Obligations.FirLoadcResult : Prop :=
  ∀ (s : State) (f : FirInst) (k : BitVec 20) (v : Rat), Issued .cmd [.num v] s →
    isNum s.cfg.num v = true → k.toNat < s.cfg.firLen f →
    exec (.firLoadc f k) s = .next
      (({ s with cmd := { s.cmd with din := [] } } : State).setFir f
        { s.fir f with coef := (s.fir f).coef.set k.toNat (some v) })

/-- R136, R137, R139: the generators. Arguments outside the domain and a zero gain are refused; otherwise
all cells are written, time-reversed and divided by the gain, and the history is kept. The arrays and the
gains are those of RaisedCosineFormula and RootRaisedCosineFormula. Where, with exact numbers, the
quotients fail a property of R138, a free array with these properties is stored (R136, log entry 17). -/
def Obligations.FirGenerators : Prop :=
  ∀ (s : State) (f : FirInst) (norm : Norm) (a b alpha : Rat),
    Issued .cmd [.num a, .num b, .num alpha] s →
    isNum s.cfg.num a = true → isNum s.cfg.num b = true → isNum s.cfg.num alpha = true →
    let L := s.cfg.firLen f
    let c := L - 1 - (L - 1) / 2
    let ok := 0 < a ∧ 0 < b ∧ 0 ≤ alpha ∧ alpha ≤ 1
    let properties (cs : List Rat) : Prop :=
      (∀ x ∈ cs, |x| ≤ |cs.getD c 0|) ∧
      (∀ k, k ≤ c → c + k < L → cs.getD (c + k) 0 = cs.getD (c - k) 0) ∧
      match norm with
      | .sum => cs.sum = 1
      | .l2 => (cs.map fun x => x ^ 2).sum = 1
    let filled (cs : List Rat) : State :=
      ({ s with cmd := { s.cmd with din := [] } } : State).setFir f
        { s.fir f with coef := cs.map some }
    let result (i : Instr) (t : List Rat) : Prop :=
      let g := tapGain s.cfg.num norm t
      let quotients := (List.range L).map fun i => numDiv s.cfg.num (t.getD (L - 1 - i) 0) g
      (¬ ok ∨ g = 0 → Refuses i s (.cfgInvalid 0x132)) ∧
      (ok → g ≠ 0 → ∃ cs, exec i s = .next (filled cs) ∧ cs.length = L ∧
        ((s.cfg.num = .exact → properties quotients) → cs = quotients) ∧
        (s.cfg.num = .exact → properties cs))
    result (.firGenrc f norm) (rcArray s.cfg f a b alpha) ∧
    result (.firGenrrc f norm) (rrcArray s.cfg f a b alpha)

/-- R137: with exact numbers, the SUM gain is the sum of the array and the L2 gain the root of its sum of
squares; the un-normalised raised-cosine array is the closed formula of the rule, its singular points
replaced by their limits; with SUM, or a root that is rational, the coefficients are its quotients.
(`sin`, `cos`, `π` and an irrational root are uninterpreted within the bounds of log entry 3.) -/
def Obligations.RaisedCosineFormula : Prop :=
  (∀ u : List Rat,
    let S := (u.map fun x => x ^ 2).sum
    let g := tapGain .exact .l2 u
    tapGain .exact .sum u = u.sum ∧ 0 ≤ g ∧ (g = 0 ↔ S = 0) ∧ ∀ q, 0 ≤ q → q ^ 2 = S → g = q) ∧
  ∀ (c : Config) (f : FirInst) (fs fc alpha : Rat), c.num = .exact → 0 < fs → 0 < fc → 0 ≤ alpha →
    let L := c.firLen f
    let pi := numPi .exact
    let sin := numSin .exact
    let cos := numCos .exact
    let Fc := fc / fs
    let t (i : Nat) : Rat :=
      let n : Rat := (i : Rat) - (((L - 1) / 2 : Nat) : Rat)
      if n = 0 then 2 * pi * Fc
      else if 0 < alpha ∧ 2 * alpha * Fc * |n| = 1 then pi / 4 * sin (2 * pi * Fc * n) / n
      else sin (2 * pi * Fc * n) / n * cos (alpha * pi * Fc * n) / (1 - (2 * alpha * Fc * n) ^ 2)
    let array := rcArray c f fs fc alpha
    array = (List.range L).map t ∧ (1 ≤ L → 0 < tapGain .exact .l2 array) ∧
    ∀ norm, tapGain .exact norm array ≠ 0 →
      (norm = .l2 → ∃ q : Rat, q ^ 2 = (array.map fun x => x ^ 2).sum) →
      tapCoefs .exact norm array =
        (List.range L).map fun i => t (L - 1 - i) / tapGain .exact norm array

/-- R139: with exact numbers, the un-normalised root-raised-cosine array is the closed formula of the
rule. (`sin`, `cos`, `sqrt`, `π` are uninterpreted: log entry 3.) -/
def Obligations.RootRaisedCosineFormula : Prop :=
  ∀ (c : Config) (f : FirInst) (fs rs alpha : Rat), c.num = .exact → 0 < fs → 0 < rs → 0 ≤ alpha →
    let L := c.firLen f
    let pi := numPi .exact
    let sin := numSin .exact
    let cos := numCos .exact
    let Ts := fs / rs
    let t (i : Nat) : Rat :=
      let n : Rat := (i : Rat) - (((L - 1) / 2 : Nat) : Rat)
      let x := n / Ts
      if n = 0 then 1 - alpha + 4 * alpha / pi
      else if 0 < alpha ∧ 4 * alpha * |x| = 1 then
        numDiv .exact alpha (numSqrt .exact 2) *
          ((1 + 2 / pi) * sin (pi / (4 * alpha)) + (1 - 2 / pi) * cos (pi / (4 * alpha)))
      else
        (sin (pi * x * (1 - alpha)) + 4 * alpha * x * cos (pi * x * (1 + alpha))) /
          (pi * x * (1 - (4 * alpha * x) ^ 2))
    rrcArray c f fs rs alpha = (List.range L).map t

/-- With exact numbers, what a generator leaves in `COEF` has the properties of R138, which R136 lets a
model assume of both generators: no entry above the one at its centre index `c = L - 1 - (L - 1) div 2` in
magnitude, symmetry about `c`, and the sum 1 (SUM) or the sum of squares 1 (L2). That they hold of every
result is the model's choice: where the formula's quotients fail one, a free array with these properties is
stored (log entry 17; the bounds of `sin`, `cos` and `sqrt` are log entry 3). -/
def Obligations.GeneratedCoefficients : Prop :=
  ∀ (s t : State) (f : FirInst) (norm : Norm) (i : Instr) (a b alpha : Rat),
    i = .firGenrc f norm ∨ i = .firGenrrc f norm →
    Issued .cmd [.num a, .num b, .num alpha] s → s.cfg.num = .exact → 1 ≤ s.cfg.firLen f →
    exec i s = .next t → t.flt = s.flt →
    let L := s.cfg.firLen f
    let c := L - 1 - (L - 1) / 2
    let h (k : Nat) : Rat := (t.fir f).values.getD k 0
    (t.fir f).coef = (List.range L).map (fun k => some (h k)) ∧
    (∀ k, k < L → |h k| ≤ |h c|) ∧
    (∀ k, k ≤ c → c + k < L → h (c + k) = h (c - k)) ∧
    (norm = .sum → ((List.range L).map h).sum = 1) ∧
    (norm = .l2 → ((List.range L).map fun k => h k ^ 2).sum = 1)

/-! ## IIR engine -/

/-- R153: `IIR.STEP`. The guard acts first, on all sections; then each section below `IIR_NSEC` computes its
centre value and output from its registers in the order written, shifts its registers and raises the
tracker; the last output is pushed. A missing coefficient or section count is refused with `0x110`, an
`a0` other than 1 with `0x111`. `iirStep` is the same call inside another operation. -/
def Obligations.IirStepResult : Prop :=
  ∀ (s : State) (x : Rat), Issued .cmd [.num x] s → isNum s.cfg.num x = true →
    s.iir.regs.length = s.iir.coefs.length →
    let written (c : IirCoefs) : Prop := c.a0 ≠ none ∧ c.a1 ≠ none ∧ c.a2 ≠ none ∧ c.b0 ≠ none ∧
      c.b1 ≠ none ∧ c.b2 ≠ none
    (s.iir.nsec = none → Refuses .iirStep s (.cfgInvalid 0x110)) ∧
    (∀ n, s.iir.nsec = some n → (∃ c ∈ s.iir.coefs.take n, ¬ written c) →
      Refuses .iirStep s (.cfgInvalid 0x110)) ∧
    (∀ n, s.iir.nsec = some n → (∀ c ∈ s.iir.coefs.take n, written c) →
      (∃ c ∈ s.iir.coefs.take n, c.a0 ≠ some 1) → Refuses .iirStep s (.cfgInvalid 0x111)) ∧
    (∀ n, s.iir.nsec = some n → n ≤ s.iir.coefs.length → (∀ c ∈ s.iir.coefs.take n, written c) →
      (∀ c ∈ s.iir.coefs.take n, c.a0 = some 1) →
      let trips := s.cfg.iirLimit < s.iir.maxReg
      let emits := trips ∧ s.iir.ovfLogged = false
      let old (k : Nat) : IirSection := if trips then ⟨0, 0, 0, 0⟩ else s.iir.regs.getD k ⟨0, 0, 0, 0⟩
      let co (k : Nat) : IirCoefs := s.iir.coefs.getD k .reset
      let r := rnd s.cfg.num
      ∃ v ct : Nat → Rat, v 0 = x ∧
        (∀ k, k < n →
          ct k = r (r (r ((co k).b0.getD 0 * v k) + r ((co k).b1.getD 0 * (old k).x1))
            + r ((co k).b2.getD 0 * (old k).x2)) ∧
          v (k + 1) = r (r (r (1 * ct k) - r ((co k).a1.getD 0 * (old k).y1))
            - r ((co k).a2.getD 0 * (old k).y2))) ∧
        let t : State := { s with
          flt := if emits then
              { s.flt with evt := s.flt.evt ++ [.iirOvf], fault := s.flt.fault ||| 0x01 }
            else s.flt
          iir := { s.iir with
            regs := (List.range s.iir.regs.length).map fun k =>
              if k < n then ⟨v k, (old k).x1, v (k + 1), (old k).y1⟩ else old k
            maxReg := (List.range n).foldl (fun m k => max (max m |ct k|) |v (k + 1)|)
              (if trips then 0 else s.iir.maxReg)
            ovfLogged := s.iir.ovfLogged || decide emits } }
        iirStep x s = (v n, t) ∧
        exec .iirStep s = .next { t with
          cmd := { s.cmd with din := [], dout := s.cmd.dout ++ [.num (v n)] } })

/-- R157, R158: `IIR.LOADC` writes one coefficient of one section; a reserved coefficient takes 0 with no
effect and refuses anything else; `IIR.SETN` writes the section count. -/
def Obligations.IirLoads : Prop :=
  (∀ (s : State) (sec : BitVec 4) (cid : IirCoef) (v : Rat), Issued .cmd [.num v] s →
    isNum s.cfg.num v = true → sec.toNat < s.cfg.iirMaxSections →
    let write (g : IirCoefs → IirCoefs) : State :=
      { s with
        cmd := { s.cmd with din := [] }
        iir := { s.iir with coefs := s.iir.coefs.modify sec.toNat g } }
    match cid with
    | .a0 => exec (.iirLoadc sec .a0) s = .next (write fun c => { c with a0 := some v })
    | .a1 => exec (.iirLoadc sec .a1) s = .next (write fun c => { c with a1 := some v })
    | .a2 => exec (.iirLoadc sec .a2) s = .next (write fun c => { c with a2 := some v })
    | .b0 => exec (.iirLoadc sec .b0) s = .next (write fun c => { c with b0 := some v })
    | .b1 => exec (.iirLoadc sec .b1) s = .next (write fun c => { c with b1 := some v })
    | .b2 => exec (.iirLoadc sec .b2) s = .next (write fun c => { c with b2 := some v })
    | .a3 | .a4 | .b3 | .b4 =>
      (v = 0 → exec (.iirLoadc sec cid) s = .next { s with cmd := { s.cmd with din := [] } }) ∧
      (v ≠ 0 → Refuses (.iirLoadc sec cid) s (.cfgInvalid (0x120 + cid.code.toNat)))) ∧
  (∀ (s : State) (n : BitVec 20), Issued .cmd [] s → 1 ≤ n.toNat → n.toNat ≤ s.cfg.iirMaxSections →
    exec (.iirSetn n) s = .next { s with iir := { s.iir with nsec := some n.toNat } })

/-! ## Reed-Solomon -/

/-- R168: `RS.UPDATE` on the parity array, index by index: one step of the division by the generator
polynomial. Its product `gmul` is R166 (a)'s: for each set bit `i` of the second factor, the first factor
doubled `i` times, a doubling being a shift reduced by the field polynomial. `rsUpdate` is the same step
inside another operation. -/
def Obligations.RsUpdateResult : Prop :=
  (∀ (field : BitVec 9) (a b : Byte),
    let low : Byte := field.extractLsb' 0 8
    let double (x : Byte) : Byte := if x.getLsbD 7 then (x <<< 1) ^^^ low else x <<< 1
    gmul field a b =
      (List.range 8).foldl (fun p i => if b.getLsbD i then p ^^^ double^[i] a else p) 0) ∧
  ∀ (c : Config) (parity : List Byte) (d : Byte), c.wf = true → parity.length = c.parityLen →
    let NP := c.parityLen
    let fb := d ^^^ parity.getD 0 0
    let G (k : Nat) : Byte := c.rsGen.getD k 0
    let next := (List.range NP).map fun j =>
      if j + 1 < NP then parity.getD (j + 1) 0 ^^^ gmul c.rsField fb (G (NP - 1 - j))
      else gmul c.rsField fb (G 0)
    rsUpdate c parity d = next ∧
    ∀ s : State, Issued .fill [] s → s.cfg = c → s.enc.parity = parity →
      exec (.rsUpdate d) s = .next { s with enc := { s.enc with parity := next } }

/-- R168: the update is linear over GF(2): the parity of the sum of two payloads is the sum of their
parities. -/
def Obligations.RsLinear : Prop :=
  ∀ (c : Config) (p q : List Byte), p.length = q.length →
    rsParity c (List.zipWith (· ^^^ ·) p q) =
      List.zipWith (· ^^^ ·) (rsParity c p) (rsParity c q)

/-- R168: the code word, a payload followed by its parity bytes in order, is divisible by the generator
polynomial: streaming it leaves the remainder zero. -/
def Obligations.RsCodeWordDivisible : Prop :=
  ∀ (c : Config) (payload : List Byte), c.wf = true →
    rsParity c (payload ++ rsParity c payload) = List.replicate c.parityLen 0

/-! ## 8b10b -/

/-- R184, R185, R187, R188, R191: `ENC.BYTE` and `ENC.SYNC` push one word, chosen by the running disparity,
and update only `RD`. The entries of the tables are written out, columns RD− and RD+. `encByte` and
`encSync` are the same words inside another operation. -/
def Obligations.EncodeWords : Prop :=
  let T5 : List (BitVec 6 × BitVec 6) :=
    [(0b100111, 0b011000), (0b011101, 0b100010), (0b101101, 0b010010), (0b110001, 0b110001),
     (0b110101, 0b001010), (0b101001, 0b101001), (0b011001, 0b011001), (0b111000, 0b000111),
     (0b111001, 0b000110), (0b100101, 0b100101), (0b010101, 0b010101), (0b110100, 0b110100),
     (0b001101, 0b001101), (0b101100, 0b101100), (0b011100, 0b011100), (0b010111, 0b101000),
     (0b011011, 0b100100), (0b100011, 0b100011), (0b010011, 0b010011), (0b110010, 0b110010),
     (0b001011, 0b001011), (0b101010, 0b101010), (0b011010, 0b011010), (0b111010, 0b000101),
     (0b110011, 0b001100), (0b100110, 0b100110), (0b010110, 0b010110), (0b110110, 0b001001),
     (0b001110, 0b001110), (0b101110, 0b010001), (0b011110, 0b100001), (0b101011, 0b010100)]
  let T3 : List (BitVec 4 × BitVec 4) :=
    [(0b1011, 0b0100), (0b1001, 0b1001), (0b0101, 0b0101), (0b1100, 0b0011),
     (0b1101, 0b0010), (0b1010, 0b1010), (0b0110, 0b0110), (0b1110, 0b0001)]
  let column {w : Nat} (rd : Disparity) (e : BitVec w × BitVec w) : BitVec w :=
    if rd = .neg then e.1 else e.2
  let other (rd : Disparity) : Disparity := if rd = .neg then .pos else .neg
  let word (rd : Disparity) (v : Byte) : Word10 × Disparity :=
    let x := v.toNat % 32
    let y := v.toNat / 32
    let six := column rd (T5.getD x (0, 0))
    let rd1 := if ones six = 3 then rd else other rd
    let alternate := y = 7 ∧ ((rd1 = .neg ∧ x ∈ [17, 18, 20]) ∨ (rd1 = .pos ∧ x ∈ [11, 13, 14]))
    let four := if alternate then column rd1 (0b0111, 0b1000) else column rd1 (T3.getD y (0, 0))
    (six ++ four, if ones four = 2 then rd1 else other rd1)
  let sync (rd : Disparity) : Word10 × Disparity := (if rd = .neg then 0x0FA else 0x305, other rd)
  (∀ rd v, encByte rd v = word rd v) ∧ (∀ rd, encSync rd = sync rd) ∧
  ∀ s : State, Issued .fill [] s →
    let sends (w : Word10 × Disparity) : State := { s with
      fill := { s.fill with dout := s.fill.dout ++ [.word10 w.1] }
      enc := { s.enc with rd := w.2 } }
    (∀ v, exec (.encByte v) s = .next (sends (word s.enc.rd v))) ∧
    exec .encSync s = .next (sends (sync s.enc.rd))

/-- R193 (a) to (c): over a whole frame, the excess of ones over zeros, counted in pairs, is the change of
the running disparity: `RD` tells exactly the line's balance. -/
def Obligations.DisparityBookkeeping : Prop :=
  ∀ (c : Config) (rd : Disparity) (payload : List Byte),
    let excess (d : Disparity) : Int := if d = .neg then 0 else 1
    let frame := encodeFrame c rd payload
    ((frame.1.map fun w => (ones w : Int)).sum =
      5 * frame.1.length + excess frame.2.rd - excess rd) ∧
    ∀ w ∈ frame.1, ones w = 4 ∨ ones w = 5 ∨ ones w = 6

/-! ## Frames -/

/-- R200, R201, R203: `FRAME.ENCODE` pushes the words of the payload, of its parity bytes and the sync word,
`FRAME_LEN` in all, encoded in line order from the current disparity: word `k` is byte `k` encoded at the
disparity after the `k` bytes before it. It writes `PARITY` and `RD` and touches neither the slots nor the
handoff. `encodeFrame` is the same frame inside `FRAME.FILL`. -/
def Obligations.FrameEncodeResult : Prop :=
  ∀ (s : State) (payload : List Byte), Issued .fill (payload.map .byte) s →
    payload.length = s.cfg.dataLen → s.cfg.wf = true →
    let parity := payload.foldl (rsUpdate s.cfg) (List.replicate s.cfg.parityLen 0)
    let bytes := payload ++ parity
    let rd (k : Nat) : Disparity := (bytes.take k).foldl (fun d v => (encByte d v).2) s.enc.rd
    let sync := encSync (rd bytes.length)
    let words := (List.range bytes.length).map (fun k => (encByte (rd k) (bytes.getD k 0)).1) ++ [sync.1]
    let enc : EncRegs := { parity := parity, rd := sync.2 }
    encodeFrame s.cfg s.enc.rd payload = (words, enc) ∧ words.length = s.cfg.frameLen ∧
    exec .frameEncode s = .next { s with
      fill := { s.fill with din := [], dout := s.fill.dout ++ words.map .word10 }
      enc := enc }

/-- R205: `FRAME.FILL` when the schedule lets it run on: the slot that is not ready holds the frame
(FrameEncodeResult's), which is then the ready one. -/
def Obligations.FrameFillResult : Prop :=
  ∀ (s : State) (payload : List Byte), Issued .fill (payload.map .byte) s →
    payload.length = s.cfg.dataLen → s.cfg.wf = true → s.hand.fillState = .requested →
    s.turns = [] →
    let frame := encodeFrame s.cfg s.enc.rd payload
    let slot := s.hand.ready.other
    exec .frameFill s = .next { s with
      fill := { s.fill with din := [] }
      enc := frame.2
      hand := { (s.hand.setBuf slot frame.1) with ready := slot, fillState := .idle }
      fillJob := none }

/-- R69 (b), R205: the three steps of `FRAME.FILL` under a schedule that gives the next move to the CMD
port: after the claim only `FILL_STATE` has changed; the second step writes the slot, `PARITY` and `RD`;
the third publishes. Between them the operation waits (log entry 8); in the halted state it stays where
it is (HaltedFrozen). -/
def Obligations.FrameFillSteps : Prop :=
  (∀ (s : State) (payload : List Byte) (rest : List Turn), Issued .fill (payload.map .byte) s →
    payload.length = s.cfg.dataLen → s.hand.fillState = .requested → s.turns = .cmd :: rest →
    exec .frameFill s = .next { s with
      hand := { s.hand with fillState := .filling }
      fillJob := some (.claimed s.hand.ready.other) }) ∧
  (∀ (s : State) (payload : List Byte) (slot : Slot) (rest : List Turn),
    s.fillJob = some (.claimed slot) → s.fill.din = payload.map .byte →
    payload.length = s.cfg.dataLen → s.cfg.wf = true → s.flt.halted = false →
    s.turns = .fill :: .cmd :: rest →
    let frame := encodeFrame s.cfg s.enc.rd payload
    step s = .next { s with
      turns := .cmd :: rest
      fill := { s.fill with din := [] }
      enc := frame.2
      hand := s.hand.setBuf slot frame.1
      fillJob := some (.written slot) }) ∧
  (∀ (s : State) (slot : Slot) (rest : List Turn),
    s.fillJob = some (.written slot) → s.flt.halted = false → s.turns = .fill :: rest →
    step s = .next { s with
      turns := rest
      hand := { s.hand with ready := slot, fillState := .idle }
      fillJob := none })

/-- R209: `FRAME.REQ` latches the ready slot and requests a fill when the handoff is idle, and does nothing
otherwise. -/
def Obligations.FrameReqResult : Prop :=
  ∀ s : State, Issued .cmd [] s →
    (s.hand.fillState = .idle →
      exec .frameReq s = .next { s with
        hand := { s.hand with active := s.hand.ready, fillState := .requested } }) ∧
    (s.hand.fillState ≠ .idle → exec .frameReq s = .next s)

/-- R207, R208: `FRAME.NEXTBIT`. Inside a word it sends the next bit; past the last bit of a word it advances
to the next word; past the last bit of the initial sync word or of a frame it crosses the boundary:
latches the published slot and requests the next fill, or, when none is published, reports
`REFILL_LATE` and sends the active slot again. `nextBit` is the same call inside MOD.BIT and PROC.PERIOD,
where FILLER may move immediately before and after the boundary access and nowhere else (R69 (c); how the
schedule says so is log entry 9). -/
def Obligations.FrameNextbitResult : Prop :=
  (∀ s : State, s.turns = [] → nextBit interleave s = nextBit id s) ∧
  (∀ s : State,
    let ends := s.iter.bitsSent = 10 ∧
      (s.iter.firstPacket = true ∨ s.iter.wordsSent + 1 = s.cfg.frameLen)
    let iter : IterRegs := { firstPacket := false, bitsSent := 0, wordsSent := 0 }
    let a := interleave s
    (¬ ends → nextBit interleave s = nextBit id s) ∧
    (ends → a.hand.fillState = .idle →
      nextBit interleave s = nextBit id (interleave { a with
        iter := iter
        hand := { a.hand with active := a.hand.ready, fillState := .requested } })) ∧
    (ends → a.hand.fillState ≠ .idle →
      nextBit interleave s = nextBit id (interleave { a with
        iter := iter
        flt := { a.flt with
          evt := a.flt.evt ++ [.refillLate a.hand.fillState]
          fault := a.flt.fault ||| 0x04 } }))) ∧
  ∀ s : State, Issued .cmd [] s → s.iter.wordsSent < s.cfg.frameLen →
    let word (first : Bool) (slot : Slot) (k : Nat) : Word10 :=
      if first then 0x0FA else (s.hand.buf slot).getD k 0
    let sends (b : Bool) (t : State) : Prop :=
      nextBit id s = (b, t) ∧
      exec .frameNextbit s =
        .next { t with cmd := { s.cmd with dout := s.cmd.dout ++ [.bit b] } }
    (s.iter.bitsSent < 10 →
      sends ((word s.iter.firstPacket s.hand.active s.iter.wordsSent).getLsbD (9 - s.iter.bitsSent))
        { s with iter := { s.iter with bitsSent := s.iter.bitsSent + 1 } }) ∧
    (s.iter.bitsSent = 10 → s.iter.firstPacket = false → s.iter.wordsSent + 1 < s.cfg.frameLen →
      sends ((word false s.hand.active (s.iter.wordsSent + 1)).getLsbD 9)
        { s with
          iter := { firstPacket := false, bitsSent := 1, wordsSent := s.iter.wordsSent + 1 } }) ∧
    (s.iter.bitsSent = 10 → (s.iter.firstPacket = true ∨ s.iter.wordsSent + 1 = s.cfg.frameLen) →
      (s.hand.fillState = .idle →
        sends ((word false s.hand.ready 0).getLsbD 9)
          { s with
            iter := { firstPacket := false, bitsSent := 1, wordsSent := 0 }
            hand := { s.hand with active := s.hand.ready, fillState := .requested } }) ∧
      (s.hand.fillState ≠ .idle →
        sends ((word false s.hand.active 0).getLsbD 9)
          { s with
            iter := { firstPacket := false, bitsSent := 1, wordsSent := 0 }
            flt := { s.flt with
              evt := s.flt.evt ++ [.refillLate s.hand.fillState]
              fault := s.flt.fault ||| 0x04 } }))

/-- R63, R212: from its first bit, `10 · FRAME_LEN` calls put the whole active slot on the line, word by
word, most significant bit first, and leave the iterator at the boundary. -/
def Obligations.FrameOnTheLine : Prop :=
  ∀ s : State, s.iter = { firstPacket := false, bitsSent := 0, wordsSent := 0 } →
    (s.hand.buf s.hand.active).length = s.cfg.frameLen →
    takeBits (10 * s.cfg.frameLen) s =
      ((s.hand.buf s.hand.active).flatMap lineBits,
        { s with iter := { firstPacket := false, bitsSent := 10,
                           wordsSent := s.cfg.frameLen - 1 } })

/-! ## Modulator -/

/-- R220, R222: `MOD.INIT` computes `SAMPLES_PER_BIT` from its arguments and resets the modulator, the
iterator and the BIT history; arguments that give no whole sample per bit are refused. Issuing it again
with the same arguments changes nothing more. -/
def Obligations.ModInitResult : Prop :=
  ∀ (s : State) (bps dec : Nat), Issued .cmd [.int bps, .int dec] s → bps < 2 ^ 32 → dec < 2 ^ 32 →
    s.firBit.hist.length = s.cfg.lBit →
    let spb := s.par.sampleRate / dec / bps
    (bps = 0 ∨ dec = 0 ∨ spb = 0 → Refuses .modInit s (.cfgInvalid 0x131)) ∧
    (bps ≠ 0 → dec ≠ 0 → spb ≠ 0 →
      let t : State := { s with
        cmd := { s.cmd with din := [] }
        modu := { state := .starting, currentBit := false, samplesSent := 0, onesRun := 0,
                  zerosRun := 0, samplesPerBit := some spb }
        iter := { firstPacket := true, bitsSent := 0, wordsSent := 0 }
        firBit := { s.firBit with hist := List.replicate s.cfg.lBit 0 } }
      exec .modInit s = .next t ∧
      exec .modInit { t with cmd := s.cmd } = .next t)

/-- R224: `MOD.BIT`. Its preconditions, in the order of R283; then, inside a bit, a sample of the current
bit; at the start of a bit, the next bit (inverted in test-pattern mode, else pulled from the line, where
the schedule may interleave FILLER), its run counted, `SAMPLES_SENT` 1. The sample is the level of the bit,
with the ramp when it applies, through the shaping filter when it is on. `modBit` is the same call inside
another operation. (What the schedule interleaves at a frame boundary: log entry 9.) -/
def Obligations.ModBitResult : Prop :=
  ∀ s : State, Issued .cmd [] s →
    let ramp : Bool := s.par.rampEn && !s.par.highSpeedEn
    let unshaped : Prop := s.par.bitLpfEn = true ∧ none ∈ s.firBit.coef
    (s.modu.samplesPerBit = none → Refuses .modBit s (.cfgInvalid 32)) ∧
    (s.modu.samplesPerBit ≠ none → s.par.oneValue = none → Refuses .modBit s (.cfgInvalid 13)) ∧
    (s.modu.samplesPerBit ≠ none → s.par.oneValue ≠ none → s.par.zeroValue = none →
      Refuses .modBit s (.cfgInvalid 14)) ∧
    (s.modu.samplesPerBit ≠ none → s.par.oneValue ≠ none → s.par.zeroValue ≠ none →
      ramp = true → s.par.rampAmt = none → Refuses .modBit s (.cfgInvalid 12)) ∧
    (s.modu.samplesPerBit ≠ none → s.par.oneValue ≠ none → s.par.zeroValue ≠ none →
      (ramp = true → s.par.rampAmt ≠ none) → unshaped → Refuses .modBit s (.cfgInvalid 0x102)) ∧
    (∀ spb one zero, s.modu.samplesPerBit = some spb → s.par.oneValue = some one →
      s.par.zeroValue = some zero → (ramp = true → s.par.rampAmt ≠ none) → ¬ unshaped →
      let starts := s.modu.state = .starting ∨ spb ≤ s.modu.samplesSent
      let pulled : Bool × State :=
        if s.par.testPatternEn then (!s.modu.currentBit, s) else nextBit interleave s
      let run (n : Nat) : Nat := if n + 1 ≤ 2 ^ 32 - 1 then n + 1 else 2 ^ 32 - 1
      let u : State := if starts then pulled.2 else s
      let m : ModRegs :=
        if starts then
          { state := .withinBit, currentBit := pulled.1, samplesSent := 1
            onesRun := if pulled.1 then run s.modu.onesRun else 0
            zerosRun := if pulled.1 then 0 else run s.modu.zerosRun
            samplesPerBit := some spb }
        else { s.modu with samplesSent := s.modu.samplesSent + 1 }
      let r := rnd s.cfg.num
      let amt := s.par.rampAmt.getD 0
      let level : Rat :=
        if m.currentBit then (if ramp then r (one + r (amt * ((m.onesRun : Rat) - 1))) else one)
        else (if ramp then r (zero - r (amt * ((m.zerosRun : Rat) - 1))) else zero)
      let shaped : Rat × FirRegs :=
        if s.par.bitLpfEn then s.firBit.step s.cfg.num level else (level, s.firBit)
      let t : State := { u with modu := m, firBit := shaped.2 }
      modBit s = (shaped.1, t) ∧
      exec .modBit s = .next { t with cmd := { s.cmd with dout := s.cmd.dout ++ [.num shaped.1] } })

/-- R225 (b), (d): in test-pattern mode with the ramp and the filter off, the samples after `MOD.INIT` are a
square wave: `SAMPLES_PER_BIT` samples of `ONE_VALUE`, as many of `ZERO_VALUE`, and so on. -/
def Obligations.TestPatternSquareWave : Prop :=
  ∀ (s : State) (spb : Nat) (one zero : Rat) (n : Nat),
    s.modu = { state := .starting, currentBit := false, samplesSent := 0, onesRun := 0,
               zerosRun := 0, samplesPerBit := some spb } → 1 ≤ spb →
    s.par.testPatternEn = true → s.par.bitLpfEn = false → rampOn s.par = false →
    s.par.oneValue = some one → s.par.zeroValue = some zero →
    (takeSamples n s).1 = (List.range n).map fun k => if k / spb % 2 = 0 then one else zero

/-! ## Period processor -/

/-- R237: `resolve_mode()`, in priority order; DUV after reset; `HIGH_SPEED_EN` switches the ramp off
whatever the mode. -/
def Obligations.ModePriority : Prop :=
  ∀ r : ParRegs,
    (r.testToneEn = true → resolveMode r = .tone) ∧
    (r.testToneEn = false → r.toneMeasEn = true → resolveMode r = .measure) ∧
    (r.testToneEn = false → r.toneMeasEn = false → r.highSpeedEn = true → resolveMode r = .hs) ∧
    (r.testToneEn = false → r.toneMeasEn = false → r.highSpeedEn = false → resolveMode r = .duv) ∧
    resolveMode ParRegs.reset = .duv ∧
    (r.highSpeedEn = true → rampOn r = false)

/-- R236, R239, R241, R248: PROC.PERIOD. A configuration that is not accepted is refused with the first
failing code. An accepted one always completes: the mode is entered (ModeEntry), the mode runs over the
input, its `PERIOD_LEN` samples are pushed after what the port held, the loop timing follows
(PeriodMonitors); configuration, parameters, coefficients and `HALTED` stay. TONE runs the oscillator on
the sine table, its sample scaled or made two-level; HS runs the modulator, each sample checked for
clipping. (MEASURE is MeasurePeriod's, DUV DuvAudioPath's; the table index under a rounding `NUM` is log
entry 6.) -/
def Obligations.PeriodCompletes : Prop :=
  (∀ (s : State) (n : BitVec 20) (info : Nat), legal s.port (.procPeriod n) s = true →
    n.toNat = s.par.periodLen → configFailure s = some info →
    Refuses (.procPeriod n) s (.cfgInvalid info)) ∧
  (∀ (s : State) (n : BitVec 20) (ins : List Rat) (dt : Duration),
    Issued .cmd (ins.map .num ++ [.duration dt]) s → (∀ x ∈ ins, isNum s.cfg.num x = true) → 0 ≤ dt →
    ins.length = n.toNat → n.toNat = s.par.periodLen → configFailure s = none →
    let r := runMode ins (enterMode { s with cmd := { s.cmd with din := [] } })
    let t := loopTiming dt { r.2 with
      cmd := { s.cmd with din := [], dout := s.cmd.dout ++ r.1.map .num } }
    exec (.procPeriod n) s = .next t ∧ r.1.length = s.par.periodLen ∧
    t.cfg = s.cfg ∧ t.par = s.par ∧ t.port = s.port ∧ t.flt.halted = s.flt.halted ∧
    (∀ f, (t.fir f).coef = (s.fir f).coef) ∧ t.iir.nsec = s.iir.nsec ∧ t.iir.coefs = s.iir.coefs) ∧
  (∀ (s : State) (ins : List Rat), resolveMode s.par = .tone →
    let r := rnd s.cfg.num
    let index (phase : Rat) : Nat :=
      let k := (Rat.floor (r (phase * (s.cfg.tableLen : Rat)))).toNat
      if s.cfg.tableLen ≤ k then s.cfg.tableLen - 1 else k
    let sample (phase : Rat) : Rat :=
      let v := s.cfg.sinTab.getD (index phase) 0
      if s.par.toneKind = .analog then r (s.par.toneLevel * v)
      else if 0 ≤ v then s.par.oneValue.getD 0 else s.par.zeroValue.getD 0
    ∃ phase : Nat → Rat, phase 0 = s.osc.phase ∧
      (∀ i, let p := r (phase i + s.osc.inc)
        phase (i + 1) = r (p - (Rat.floor p : Rat))) ∧
      runMode ins s = ((List.range s.par.periodLen).map (fun i => sample (phase (i + 1))),
        { s with osc := { s.osc with phase := phase s.par.periodLen } })) ∧
  (∀ (s : State) (ins : List Rat), resolveMode s.par = .hs →
    ∃ (chain : Nat → State) (o : Nat → Rat), chain 0 = s ∧
      (∀ i, o i = (modBit (chain i)).1 ∧
        chain (i + 1) = clipCheck i (o i) (modBit (chain i)).2) ∧
      runMode ins s = ((List.range s.par.periodLen).map o, chain s.par.periodLen))

/-- R248: `config_ok`, the code of the first condition that fails. -/
def Obligations.ConfigurationTests : Prop :=
  ∀ s : State,
    let r := s.par
    let written (f : FirInst) : Prop := none ∉ (s.fir f).coef
    let telem (d : Nat) : Option Nat :=
      if r.bps = none then some 9
      else if r.sampleRate / d / r.bps.getD 0 = 0 then some 0x131
      else if r.oneValue = none then some 13
      else if r.zeroValue = none then some 14
      else if r.rampEn = true ∧ r.highSpeedEn = false ∧ r.rampAmt = none then some 12
      else if r.bitLpfEn = true ∧ ¬ written .bit then some 0x102
      else none
    let unready (n : Nat) : Prop := ∃ c ∈ s.iir.coefs.take n,
      c.a0 = none ∨ c.a1 = none ∨ c.a2 = none ∨ c.b0 = none ∨ c.b1 = none ∨ c.b2 = none
    (resolveMode r = .measure → configFailure s = none) ∧
    (resolveMode r = .tone → configFailure s =
      if r.testToneFreq = none then some 6
      else if r.toneKind = .digital ∧ r.oneValue = none then some 13
      else if r.toneKind = .digital ∧ r.zeroValue = none then some 14
      else none) ∧
    (resolveMode r = .hs → configFailure s = telem 1) ∧
    (resolveMode r = .duv →
      (r.periodLen % r.decimationRate ≠ 0 → configFailure s = some 0x130) ∧
      (r.periodLen % r.decimationRate = 0 → ¬ written .dec → configFailure s = some 0x100) ∧
      (r.periodLen % r.decimationRate = 0 → written .dec → ¬ written .int →
        configFailure s = some 0x101) ∧
      (r.periodLen % r.decimationRate = 0 → written .dec → written .int → r.hpfEn = true →
        (s.iir.nsec = none → configFailure s = some 0x110) ∧
        (∀ n, s.iir.nsec = some n → unready n → configFailure s = some 0x110) ∧
        (∀ n, s.iir.nsec = some n → ¬ unready n → (∃ c ∈ s.iir.coefs.take n, c.a0 ≠ some 1) →
          configFailure s = some 0x111) ∧
        (∀ n, s.iir.nsec = some n → ¬ unready n → (∀ c ∈ s.iir.coefs.take n, c.a0 = some 1) →
          configFailure s = if r.telemEn then telem r.decimationRate else none)) ∧
      (r.periodLen % r.decimationRate = 0 → written .dec → written .int → r.hpfEn = false →
        configFailure s = if r.telemEn then telem r.decimationRate else none))

/-- R238: a mode entry. It clears `CLIP_LOGGED`, the DEC and INT histories and the IIR registers, restarts
what its mode uses, latches the key; with the key already latched nothing happens. -/
def Obligations.ModeEntry : Prop :=
  ∀ s : State, s.firDec.hist.length = s.cfg.lDec → s.firInt.hist.length = s.cfg.lInt →
    s.firBit.hist.length = s.cfg.lBit → s.iir.regs.length = s.cfg.iirMaxSections →
    let key := modeKeyOf s.par
    let base : State := { s with
      firDec := { s.firDec with hist := List.replicate s.cfg.lDec 0 }
      firInt := { s.firInt with hist := List.replicate s.cfg.lInt 0 }
      iir := { s.iir with
        regs := List.replicate s.cfg.iirMaxSections ⟨0, 0, 0, 0⟩, maxReg := 0 }
      proc := { s.proc with clipLogged := false, curKey := some key } }
    let restarted (d : Nat) : State := { base with
      modu := { state := .starting, currentBit := false, samplesSent := 0, onesRun := 0, zerosRun := 0,
                samplesPerBit := some (s.par.sampleRate / d / s.par.bps.getD 0) }
      iter := { firstPacket := true, bitsSent := 0, wordsSent := 0 }
      firBit := { s.firBit with hist := List.replicate s.cfg.lBit 0 } }
    (s.proc.curKey = some key → enterMode s = s) ∧
    (s.proc.curKey ≠ some key → enterMode s =
      match resolveMode s.par with
      | .hs => restarted 1
      | .duv => if s.par.telemEn then restarted s.par.decimationRate else base
      | .tone => { base with osc :=
          { phase := 0
            inc := numDiv s.cfg.num (s.par.testToneFreq.getD 0) (s.par.sampleRate : Rat) } }
      | .measure => { base with proc := { base.proc with peak := 0, measCount := 0 } })

/-- R240 with R236, R238, R252: a MEASURE period, its mode entered when the key differs, passes its input
through and raises the peak; at the end of its window it reports and clears it. The loop timing follows.
Nothing else changes. -/
def Obligations.MeasurePeriod : Prop :=
  ∀ (s : State) (n : BitVec 20) (ins : List Rat) (dt : Duration),
    Issued .cmd (ins.map .num ++ [.duration dt]) s → (∀ x ∈ ins, isNum s.cfg.num x = true) → 0 ≤ dt →
    ins.length = n.toNat → n.toNat = s.par.periodLen → resolveMode s.par = .measure →
    let e := enterMode { s with cmd := { s.cmd with din := [] } }
    let peak := ins.foldl (fun m x => max m |x|) e.proc.peak
    let ends := e.proc.measCount + 1 = s.cfg.measWindow
    exec (.procPeriod n) s = .next (loopTiming dt { e with
      cmd := { s.cmd with din := [], dout := s.cmd.dout ++ ins.map .num }
      proc := { e.proc with
        peak := if ends then 0 else peak
        measCount := if ends then 0 else e.proc.measCount + 1 }
      flt := if ends then
          { s.flt with evt := s.flt.evt ++ [.peakReport peak], fault := s.flt.fault ||| 0x10 }
        else s.flt })

/-- R249, R252: the two monitors of a period. `clip_check(o, i)`: strict, once per mode entry, the sample
unchanged. `loop_timing(dt)`: the accumulators, and at the end of a window the deadline test and their
reset. -/
def Obligations.PeriodMonitors : Prop :=
  (∀ (s : State) (o : Rat) (i : Nat),
    (s.cfg.clipLimit < |o| → s.proc.clipLogged = false →
      clipCheck i o s = { s with
        proc := { s.proc with clipLogged := true }
        flt := { s.flt with evt := s.flt.evt ++ [.clip i], fault := s.flt.fault ||| 0x02 } }) ∧
    (|o| ≤ s.cfg.clipLimit ∨ s.proc.clipLogged = true → clipCheck i o s = s)) ∧
  ∀ (s : State) (dt : Duration),
    let longest := max s.proc.ltMax dt
    let shortest := match s.proc.ltMin with
      | none => dt
      | some m => min m dt
    let late := (s.par.periodLen : Rat) / (s.par.sampleRate : Rat) < longest
    loopTiming dt s =
      if s.proc.ltCount + 1 = s.cfg.ltWindow then
        { s with
          proc := { s.proc with ltMax := 0, ltMin := none, ltTotal := 0, ltCount := 0 }
          flt := if late then
              { s.flt with evt := s.flt.evt ++ [.deadlineWarn longest], fault := s.flt.fault ||| 0x08 }
            else s.flt }
      else
        { s with proc := { s.proc with
            ltMax := longest, ltMin := some shortest, ltTotal := s.proc.ltTotal + dt,
            ltCount := s.proc.ltCount + 1 } }

/-- R242 to R247, R249: a DUV run. It filters every input sample through DEC and keeps the last of each
group of `N`; with `HPF_EN` the kept samples pass the IIR engine; with `TELEM_EN` a sample of the modulator
is added to each; zeros are stuffed with gain `N` and the result filtered through INT. The output is that,
unchanged; the first sample of the mode entry above `CLIP_LIMIT` sets `CLIP_LOGGED` and emits `CLIP` after
all else, and where there is none, or one was logged before, only the stages' own state changes. -/
def Obligations.DuvAudioPath : Prop :=
  ∀ (s : State) (ins : List Rat), resolveMode s.par = .duv → 1 ≤ s.par.decimationRate →
    ins.length = s.par.periodLen → s.par.periodLen % s.par.decimationRate = 0 →
    let N := s.par.decimationRate
    let M := s.par.periodLen / N
    let r := rnd s.cfg.num
    let dec := takeFir .dec ins s
    let kept := (List.range M).map fun k => dec.1.getD (k * N + (N - 1)) 0
    let passed := if s.par.hpfEn then takeIir kept dec.2 else (kept, dec.2)
    let bits := if s.par.telemEn then takeSamples M passed.2 else ([], passed.2)
    let sent (k : Nat) : Rat :=
      if s.par.telemEn then r (passed.1.getD k 0 + bits.1.getD k 0) else passed.1.getD k 0
    let stuffed := (List.range s.par.periodLen).map fun j =>
      if j % N = 0 then r (sent (j / N) * (N : Rat)) else 0
    let out := takeFir .int stuffed bits.2
    let clips (j : Nat) : Prop := s.cfg.clipLimit < |out.1.getD j 0|
    (s.proc.clipLogged = true ∨ (∀ j, j < s.par.periodLen → ¬ clips j) → runMode ins s = out) ∧
    (∀ j, s.proc.clipLogged = false → j < s.par.periodLen → clips j → (∀ k, k < j → ¬ clips k) →
      runMode ins s = (out.1, { out.2 with
        proc := { out.2.proc with clipLogged := true }
        flt := { out.2.flt with evt := out.2.flt.evt ++ [.clip j], fault := out.2.flt.fault ||| 0x02 } }))

end
end

