-- ==== Sys2Proof/Laws/Decode.lean ====
section
/-! SUPPORT. The fields of an assembled command word, and the codes of the named operands. -/

namespace Sys2Proof

@[simp] theorem opOf_mkWord (op : BitVec 8) (u : BitVec 4) (imm : BitVec 20) :
    opOf (mkWord op u imm) = op := by
  apply BitVec.eq_of_getLsbD_eq
  intro i hi
  have h1 : ¬ 24 + i < 20 := by omega
  have h2 : ¬ 24 + i - 20 < 4 := by omega
  have h3 : 24 + i - 20 - 4 = i := by omega
  simp only [opOf, mkWord, BitVec.getLsbD_extractLsb', BitVec.getLsbD_append, h1, h2, h3, hi]
  simp

@[simp] theorem unitOf_mkWord (op : BitVec 8) (u : BitVec 4) (imm : BitVec 20) :
    unitOf (mkWord op u imm) = u := by
  apply BitVec.eq_of_getLsbD_eq
  intro i hi
  have h1 : ¬ 20 + i < 20 := by omega
  have h2 : 20 + i - 20 < 4 := by omega
  have h3 : 20 + i - 20 = i := by omega
  simp only [unitOf, mkWord, BitVec.getLsbD_extractLsb', BitVec.getLsbD_append, h1, h3, hi]
  simp

@[simp] theorem immOf_mkWord (op : BitVec 8) (u : BitVec 4) (imm : BitVec 20) :
    immOf (mkWord op u imm) = imm := by
  apply BitVec.eq_of_getLsbD_eq
  intro i hi
  simp only [immOf, mkWord, BitVec.getLsbD_extractLsb', BitVec.getLsbD_append, Nat.zero_add, hi]
  simp

/-- A word is its three fields (R91). -/
theorem mkWord_fields (w : Word) : mkWord (opOf w) (unitOf w) (immOf w) = w := by
  apply BitVec.eq_of_getLsbD_eq
  intro i hi
  simp only [mkWord, opOf, unitOf, immOf, BitVec.getLsbD_append, BitVec.getLsbD_extractLsb']
  by_cases h1 : i < 20
  · simp [h1]
  · by_cases h2 : i - 20 < 4
    · have h4 : 20 + (i - 20) = i := by omega
      simp [h1, h2, h4]
    · have h3 : i - 20 - 4 < 8 := by omega
      have h4 : 24 + (i - 20 - 4) = i := by omega
      simp [h1, h2, h3, h4]

/-- Every immediate fits 20 bits. -/
@[simp] theorem immFits_twenty (w : Word) : immFits 20 w = true := by
  simp only [immFits, decide_eq_true_eq]
  exact (immOf w).isLt

@[simp] theorem firInstOf_code (f : FirInst) : firInstOf f.code = some f := by cases f <;> rfl

@[simp] theorem iirCoefOf_code (c : IirCoef) : iirCoefOf c.code = some c := by cases c <;> rfl

@[simp] theorem parRegOf_code (r : ParReg) : parRegOf r.code = some r := by cases r <;> rfl

@[simp] theorem tableSelOf_code (t : TableSel) : tableSelOf t.code = t := by cases t <;> rfl

@[simp] theorem normOf_code (n : Norm) : normOf n.code = n := by cases n <;> rfl

/-- A code that names a FIR instance is that instance's code. -/
theorem firInst_code_of {u : BitVec 4} {f : FirInst} (h : firInstOf u = some f) : f.code = u := by
  revert h
  cases f <;> revert u <;> decide

/-- A code that names an IIR coefficient is that coefficient's code. -/
theorem iirCoef_code_of {u : BitVec 4} {c : IirCoef} (h : iirCoefOf u = some c) : c.code = u := by
  revert h
  cases c <;> revert u <;> decide

/-- A number that names a parameter register is that register's number. -/
theorem parReg_code_of {u : BitVec 8} {r : ParReg} (h : parRegOf u = some r) : r.code = u := by
  simp only [parRegOf] at h
  split at h <;> first
    | (obtain rfl := Option.some.inj h; exact BitVec.eq_of_toNat_eq (by simp_all [ParReg.code]))
    | cases h

end Sys2Proof
end

