-- ==== Sys2Proof/Laws/State.lean ====
section
/-! SUPPORT. What each update of the state leaves in each register group: one lemma per group per
update, true by definition. -/

namespace Sys2Proof.Machine.State

section
variable (s : State) (x : PortIO)
@[simp] theorem setCmd_cfg : (s.setCmd x).cfg = s.cfg := rfl
@[simp] theorem setCmd_cmd : (s.setCmd x).cmd = x := rfl
@[simp] theorem setCmd_fill : (s.setCmd x).fill = s.fill := rfl
@[simp] theorem setCmd_turns : (s.setCmd x).turns = s.turns := rfl
@[simp] theorem setCmd_port : (s.setCmd x).port = s.port := rfl
@[simp] theorem setCmd_fillJob : (s.setCmd x).fillJob = s.fillJob := rfl
@[simp] theorem setCmd_flt : (s.setCmd x).flt = s.flt := rfl
@[simp] theorem setCmd_osc : (s.setCmd x).osc = s.osc := rfl
@[simp] theorem setCmd_firDec : (s.setCmd x).firDec = s.firDec := rfl
@[simp] theorem setCmd_firInt : (s.setCmd x).firInt = s.firInt := rfl
@[simp] theorem setCmd_firBit : (s.setCmd x).firBit = s.firBit := rfl
@[simp] theorem setCmd_iir : (s.setCmd x).iir = s.iir := rfl
@[simp] theorem setCmd_enc : (s.setCmd x).enc = s.enc := rfl
@[simp] theorem setCmd_hand : (s.setCmd x).hand = s.hand := rfl
@[simp] theorem setCmd_iter : (s.setCmd x).iter = s.iter := rfl
@[simp] theorem setCmd_modu : (s.setCmd x).modu = s.modu := rfl
@[simp] theorem setCmd_proc : (s.setCmd x).proc = s.proc := rfl
@[simp] theorem setCmd_par : (s.setCmd x).par = s.par := rfl
end

section
variable (s : State) (x : PortIO)
@[simp] theorem setFill_cfg : (s.setFill x).cfg = s.cfg := rfl
@[simp] theorem setFill_cmd : (s.setFill x).cmd = s.cmd := rfl
@[simp] theorem setFill_fill : (s.setFill x).fill = x := rfl
@[simp] theorem setFill_turns : (s.setFill x).turns = s.turns := rfl
@[simp] theorem setFill_port : (s.setFill x).port = s.port := rfl
@[simp] theorem setFill_fillJob : (s.setFill x).fillJob = s.fillJob := rfl
@[simp] theorem setFill_flt : (s.setFill x).flt = s.flt := rfl
@[simp] theorem setFill_osc : (s.setFill x).osc = s.osc := rfl
@[simp] theorem setFill_firDec : (s.setFill x).firDec = s.firDec := rfl
@[simp] theorem setFill_firInt : (s.setFill x).firInt = s.firInt := rfl
@[simp] theorem setFill_firBit : (s.setFill x).firBit = s.firBit := rfl
@[simp] theorem setFill_iir : (s.setFill x).iir = s.iir := rfl
@[simp] theorem setFill_enc : (s.setFill x).enc = s.enc := rfl
@[simp] theorem setFill_hand : (s.setFill x).hand = s.hand := rfl
@[simp] theorem setFill_iter : (s.setFill x).iter = s.iter := rfl
@[simp] theorem setFill_modu : (s.setFill x).modu = s.modu := rfl
@[simp] theorem setFill_proc : (s.setFill x).proc = s.proc := rfl
@[simp] theorem setFill_par : (s.setFill x).par = s.par := rfl
end

section
variable (s : State) (x : List Turn)
@[simp] theorem setTurns_cfg : (s.setTurns x).cfg = s.cfg := rfl
@[simp] theorem setTurns_cmd : (s.setTurns x).cmd = s.cmd := rfl
@[simp] theorem setTurns_fill : (s.setTurns x).fill = s.fill := rfl
@[simp] theorem setTurns_turns : (s.setTurns x).turns = x := rfl
@[simp] theorem setTurns_port : (s.setTurns x).port = s.port := rfl
@[simp] theorem setTurns_fillJob : (s.setTurns x).fillJob = s.fillJob := rfl
@[simp] theorem setTurns_flt : (s.setTurns x).flt = s.flt := rfl
@[simp] theorem setTurns_osc : (s.setTurns x).osc = s.osc := rfl
@[simp] theorem setTurns_firDec : (s.setTurns x).firDec = s.firDec := rfl
@[simp] theorem setTurns_firInt : (s.setTurns x).firInt = s.firInt := rfl
@[simp] theorem setTurns_firBit : (s.setTurns x).firBit = s.firBit := rfl
@[simp] theorem setTurns_iir : (s.setTurns x).iir = s.iir := rfl
@[simp] theorem setTurns_enc : (s.setTurns x).enc = s.enc := rfl
@[simp] theorem setTurns_hand : (s.setTurns x).hand = s.hand := rfl
@[simp] theorem setTurns_iter : (s.setTurns x).iter = s.iter := rfl
@[simp] theorem setTurns_modu : (s.setTurns x).modu = s.modu := rfl
@[simp] theorem setTurns_proc : (s.setTurns x).proc = s.proc := rfl
@[simp] theorem setTurns_par : (s.setTurns x).par = s.par := rfl
end

section
variable (s : State) (x : Port)
@[simp] theorem setPort_cfg : (s.setPort x).cfg = s.cfg := rfl
@[simp] theorem setPort_cmd : (s.setPort x).cmd = s.cmd := rfl
@[simp] theorem setPort_fill : (s.setPort x).fill = s.fill := rfl
@[simp] theorem setPort_turns : (s.setPort x).turns = s.turns := rfl
@[simp] theorem setPort_port : (s.setPort x).port = x := rfl
@[simp] theorem setPort_fillJob : (s.setPort x).fillJob = s.fillJob := rfl
@[simp] theorem setPort_flt : (s.setPort x).flt = s.flt := rfl
@[simp] theorem setPort_osc : (s.setPort x).osc = s.osc := rfl
@[simp] theorem setPort_firDec : (s.setPort x).firDec = s.firDec := rfl
@[simp] theorem setPort_firInt : (s.setPort x).firInt = s.firInt := rfl
@[simp] theorem setPort_firBit : (s.setPort x).firBit = s.firBit := rfl
@[simp] theorem setPort_iir : (s.setPort x).iir = s.iir := rfl
@[simp] theorem setPort_enc : (s.setPort x).enc = s.enc := rfl
@[simp] theorem setPort_hand : (s.setPort x).hand = s.hand := rfl
@[simp] theorem setPort_iter : (s.setPort x).iter = s.iter := rfl
@[simp] theorem setPort_modu : (s.setPort x).modu = s.modu := rfl
@[simp] theorem setPort_proc : (s.setPort x).proc = s.proc := rfl
@[simp] theorem setPort_par : (s.setPort x).par = s.par := rfl
end

section
variable (s : State) (x : Option FillJob)
@[simp] theorem setFillJob_cfg : (s.setFillJob x).cfg = s.cfg := rfl
@[simp] theorem setFillJob_cmd : (s.setFillJob x).cmd = s.cmd := rfl
@[simp] theorem setFillJob_fill : (s.setFillJob x).fill = s.fill := rfl
@[simp] theorem setFillJob_turns : (s.setFillJob x).turns = s.turns := rfl
@[simp] theorem setFillJob_port : (s.setFillJob x).port = s.port := rfl
@[simp] theorem setFillJob_fillJob : (s.setFillJob x).fillJob = x := rfl
@[simp] theorem setFillJob_flt : (s.setFillJob x).flt = s.flt := rfl
@[simp] theorem setFillJob_osc : (s.setFillJob x).osc = s.osc := rfl
@[simp] theorem setFillJob_firDec : (s.setFillJob x).firDec = s.firDec := rfl
@[simp] theorem setFillJob_firInt : (s.setFillJob x).firInt = s.firInt := rfl
@[simp] theorem setFillJob_firBit : (s.setFillJob x).firBit = s.firBit := rfl
@[simp] theorem setFillJob_iir : (s.setFillJob x).iir = s.iir := rfl
@[simp] theorem setFillJob_enc : (s.setFillJob x).enc = s.enc := rfl
@[simp] theorem setFillJob_hand : (s.setFillJob x).hand = s.hand := rfl
@[simp] theorem setFillJob_iter : (s.setFillJob x).iter = s.iter := rfl
@[simp] theorem setFillJob_modu : (s.setFillJob x).modu = s.modu := rfl
@[simp] theorem setFillJob_proc : (s.setFillJob x).proc = s.proc := rfl
@[simp] theorem setFillJob_par : (s.setFillJob x).par = s.par := rfl
end

section
variable (s : State) (x : FaultRegs)
@[simp] theorem setFlt_cfg : (s.setFlt x).cfg = s.cfg := rfl
@[simp] theorem setFlt_cmd : (s.setFlt x).cmd = s.cmd := rfl
@[simp] theorem setFlt_fill : (s.setFlt x).fill = s.fill := rfl
@[simp] theorem setFlt_turns : (s.setFlt x).turns = s.turns := rfl
@[simp] theorem setFlt_port : (s.setFlt x).port = s.port := rfl
@[simp] theorem setFlt_fillJob : (s.setFlt x).fillJob = s.fillJob := rfl
@[simp] theorem setFlt_flt : (s.setFlt x).flt = x := rfl
@[simp] theorem setFlt_osc : (s.setFlt x).osc = s.osc := rfl
@[simp] theorem setFlt_firDec : (s.setFlt x).firDec = s.firDec := rfl
@[simp] theorem setFlt_firInt : (s.setFlt x).firInt = s.firInt := rfl
@[simp] theorem setFlt_firBit : (s.setFlt x).firBit = s.firBit := rfl
@[simp] theorem setFlt_iir : (s.setFlt x).iir = s.iir := rfl
@[simp] theorem setFlt_enc : (s.setFlt x).enc = s.enc := rfl
@[simp] theorem setFlt_hand : (s.setFlt x).hand = s.hand := rfl
@[simp] theorem setFlt_iter : (s.setFlt x).iter = s.iter := rfl
@[simp] theorem setFlt_modu : (s.setFlt x).modu = s.modu := rfl
@[simp] theorem setFlt_proc : (s.setFlt x).proc = s.proc := rfl
@[simp] theorem setFlt_par : (s.setFlt x).par = s.par := rfl
end

section
variable (s : State) (x : OscRegs)
@[simp] theorem setOsc_cfg : (s.setOsc x).cfg = s.cfg := rfl
@[simp] theorem setOsc_cmd : (s.setOsc x).cmd = s.cmd := rfl
@[simp] theorem setOsc_fill : (s.setOsc x).fill = s.fill := rfl
@[simp] theorem setOsc_turns : (s.setOsc x).turns = s.turns := rfl
@[simp] theorem setOsc_port : (s.setOsc x).port = s.port := rfl
@[simp] theorem setOsc_fillJob : (s.setOsc x).fillJob = s.fillJob := rfl
@[simp] theorem setOsc_flt : (s.setOsc x).flt = s.flt := rfl
@[simp] theorem setOsc_osc : (s.setOsc x).osc = x := rfl
@[simp] theorem setOsc_firDec : (s.setOsc x).firDec = s.firDec := rfl
@[simp] theorem setOsc_firInt : (s.setOsc x).firInt = s.firInt := rfl
@[simp] theorem setOsc_firBit : (s.setOsc x).firBit = s.firBit := rfl
@[simp] theorem setOsc_iir : (s.setOsc x).iir = s.iir := rfl
@[simp] theorem setOsc_enc : (s.setOsc x).enc = s.enc := rfl
@[simp] theorem setOsc_hand : (s.setOsc x).hand = s.hand := rfl
@[simp] theorem setOsc_iter : (s.setOsc x).iter = s.iter := rfl
@[simp] theorem setOsc_modu : (s.setOsc x).modu = s.modu := rfl
@[simp] theorem setOsc_proc : (s.setOsc x).proc = s.proc := rfl
@[simp] theorem setOsc_par : (s.setOsc x).par = s.par := rfl
end

section
variable (s : State) (x : FirRegs)
@[simp] theorem setFirDec_cfg : (s.setFirDec x).cfg = s.cfg := rfl
@[simp] theorem setFirDec_cmd : (s.setFirDec x).cmd = s.cmd := rfl
@[simp] theorem setFirDec_fill : (s.setFirDec x).fill = s.fill := rfl
@[simp] theorem setFirDec_turns : (s.setFirDec x).turns = s.turns := rfl
@[simp] theorem setFirDec_port : (s.setFirDec x).port = s.port := rfl
@[simp] theorem setFirDec_fillJob : (s.setFirDec x).fillJob = s.fillJob := rfl
@[simp] theorem setFirDec_flt : (s.setFirDec x).flt = s.flt := rfl
@[simp] theorem setFirDec_osc : (s.setFirDec x).osc = s.osc := rfl
@[simp] theorem setFirDec_firDec : (s.setFirDec x).firDec = x := rfl
@[simp] theorem setFirDec_firInt : (s.setFirDec x).firInt = s.firInt := rfl
@[simp] theorem setFirDec_firBit : (s.setFirDec x).firBit = s.firBit := rfl
@[simp] theorem setFirDec_iir : (s.setFirDec x).iir = s.iir := rfl
@[simp] theorem setFirDec_enc : (s.setFirDec x).enc = s.enc := rfl
@[simp] theorem setFirDec_hand : (s.setFirDec x).hand = s.hand := rfl
@[simp] theorem setFirDec_iter : (s.setFirDec x).iter = s.iter := rfl
@[simp] theorem setFirDec_modu : (s.setFirDec x).modu = s.modu := rfl
@[simp] theorem setFirDec_proc : (s.setFirDec x).proc = s.proc := rfl
@[simp] theorem setFirDec_par : (s.setFirDec x).par = s.par := rfl
end

section
variable (s : State) (x : FirRegs)
@[simp] theorem setFirInt_cfg : (s.setFirInt x).cfg = s.cfg := rfl
@[simp] theorem setFirInt_cmd : (s.setFirInt x).cmd = s.cmd := rfl
@[simp] theorem setFirInt_fill : (s.setFirInt x).fill = s.fill := rfl
@[simp] theorem setFirInt_turns : (s.setFirInt x).turns = s.turns := rfl
@[simp] theorem setFirInt_port : (s.setFirInt x).port = s.port := rfl
@[simp] theorem setFirInt_fillJob : (s.setFirInt x).fillJob = s.fillJob := rfl
@[simp] theorem setFirInt_flt : (s.setFirInt x).flt = s.flt := rfl
@[simp] theorem setFirInt_osc : (s.setFirInt x).osc = s.osc := rfl
@[simp] theorem setFirInt_firDec : (s.setFirInt x).firDec = s.firDec := rfl
@[simp] theorem setFirInt_firInt : (s.setFirInt x).firInt = x := rfl
@[simp] theorem setFirInt_firBit : (s.setFirInt x).firBit = s.firBit := rfl
@[simp] theorem setFirInt_iir : (s.setFirInt x).iir = s.iir := rfl
@[simp] theorem setFirInt_enc : (s.setFirInt x).enc = s.enc := rfl
@[simp] theorem setFirInt_hand : (s.setFirInt x).hand = s.hand := rfl
@[simp] theorem setFirInt_iter : (s.setFirInt x).iter = s.iter := rfl
@[simp] theorem setFirInt_modu : (s.setFirInt x).modu = s.modu := rfl
@[simp] theorem setFirInt_proc : (s.setFirInt x).proc = s.proc := rfl
@[simp] theorem setFirInt_par : (s.setFirInt x).par = s.par := rfl
end

section
variable (s : State) (x : FirRegs)
@[simp] theorem setFirBit_cfg : (s.setFirBit x).cfg = s.cfg := rfl
@[simp] theorem setFirBit_cmd : (s.setFirBit x).cmd = s.cmd := rfl
@[simp] theorem setFirBit_fill : (s.setFirBit x).fill = s.fill := rfl
@[simp] theorem setFirBit_turns : (s.setFirBit x).turns = s.turns := rfl
@[simp] theorem setFirBit_port : (s.setFirBit x).port = s.port := rfl
@[simp] theorem setFirBit_fillJob : (s.setFirBit x).fillJob = s.fillJob := rfl
@[simp] theorem setFirBit_flt : (s.setFirBit x).flt = s.flt := rfl
@[simp] theorem setFirBit_osc : (s.setFirBit x).osc = s.osc := rfl
@[simp] theorem setFirBit_firDec : (s.setFirBit x).firDec = s.firDec := rfl
@[simp] theorem setFirBit_firInt : (s.setFirBit x).firInt = s.firInt := rfl
@[simp] theorem setFirBit_firBit : (s.setFirBit x).firBit = x := rfl
@[simp] theorem setFirBit_iir : (s.setFirBit x).iir = s.iir := rfl
@[simp] theorem setFirBit_enc : (s.setFirBit x).enc = s.enc := rfl
@[simp] theorem setFirBit_hand : (s.setFirBit x).hand = s.hand := rfl
@[simp] theorem setFirBit_iter : (s.setFirBit x).iter = s.iter := rfl
@[simp] theorem setFirBit_modu : (s.setFirBit x).modu = s.modu := rfl
@[simp] theorem setFirBit_proc : (s.setFirBit x).proc = s.proc := rfl
@[simp] theorem setFirBit_par : (s.setFirBit x).par = s.par := rfl
end

section
variable (s : State) (x : IirRegs)
@[simp] theorem setIir_cfg : (s.setIir x).cfg = s.cfg := rfl
@[simp] theorem setIir_cmd : (s.setIir x).cmd = s.cmd := rfl
@[simp] theorem setIir_fill : (s.setIir x).fill = s.fill := rfl
@[simp] theorem setIir_turns : (s.setIir x).turns = s.turns := rfl
@[simp] theorem setIir_port : (s.setIir x).port = s.port := rfl
@[simp] theorem setIir_fillJob : (s.setIir x).fillJob = s.fillJob := rfl
@[simp] theorem setIir_flt : (s.setIir x).flt = s.flt := rfl
@[simp] theorem setIir_osc : (s.setIir x).osc = s.osc := rfl
@[simp] theorem setIir_firDec : (s.setIir x).firDec = s.firDec := rfl
@[simp] theorem setIir_firInt : (s.setIir x).firInt = s.firInt := rfl
@[simp] theorem setIir_firBit : (s.setIir x).firBit = s.firBit := rfl
@[simp] theorem setIir_iir : (s.setIir x).iir = x := rfl
@[simp] theorem setIir_enc : (s.setIir x).enc = s.enc := rfl
@[simp] theorem setIir_hand : (s.setIir x).hand = s.hand := rfl
@[simp] theorem setIir_iter : (s.setIir x).iter = s.iter := rfl
@[simp] theorem setIir_modu : (s.setIir x).modu = s.modu := rfl
@[simp] theorem setIir_proc : (s.setIir x).proc = s.proc := rfl
@[simp] theorem setIir_par : (s.setIir x).par = s.par := rfl
end

section
variable (s : State) (x : EncRegs)
@[simp] theorem setEnc_cfg : (s.setEnc x).cfg = s.cfg := rfl
@[simp] theorem setEnc_cmd : (s.setEnc x).cmd = s.cmd := rfl
@[simp] theorem setEnc_fill : (s.setEnc x).fill = s.fill := rfl
@[simp] theorem setEnc_turns : (s.setEnc x).turns = s.turns := rfl
@[simp] theorem setEnc_port : (s.setEnc x).port = s.port := rfl
@[simp] theorem setEnc_fillJob : (s.setEnc x).fillJob = s.fillJob := rfl
@[simp] theorem setEnc_flt : (s.setEnc x).flt = s.flt := rfl
@[simp] theorem setEnc_osc : (s.setEnc x).osc = s.osc := rfl
@[simp] theorem setEnc_firDec : (s.setEnc x).firDec = s.firDec := rfl
@[simp] theorem setEnc_firInt : (s.setEnc x).firInt = s.firInt := rfl
@[simp] theorem setEnc_firBit : (s.setEnc x).firBit = s.firBit := rfl
@[simp] theorem setEnc_iir : (s.setEnc x).iir = s.iir := rfl
@[simp] theorem setEnc_enc : (s.setEnc x).enc = x := rfl
@[simp] theorem setEnc_hand : (s.setEnc x).hand = s.hand := rfl
@[simp] theorem setEnc_iter : (s.setEnc x).iter = s.iter := rfl
@[simp] theorem setEnc_modu : (s.setEnc x).modu = s.modu := rfl
@[simp] theorem setEnc_proc : (s.setEnc x).proc = s.proc := rfl
@[simp] theorem setEnc_par : (s.setEnc x).par = s.par := rfl
end

section
variable (s : State) (x : HandRegs)
@[simp] theorem setHand_cfg : (s.setHand x).cfg = s.cfg := rfl
@[simp] theorem setHand_cmd : (s.setHand x).cmd = s.cmd := rfl
@[simp] theorem setHand_fill : (s.setHand x).fill = s.fill := rfl
@[simp] theorem setHand_turns : (s.setHand x).turns = s.turns := rfl
@[simp] theorem setHand_port : (s.setHand x).port = s.port := rfl
@[simp] theorem setHand_fillJob : (s.setHand x).fillJob = s.fillJob := rfl
@[simp] theorem setHand_flt : (s.setHand x).flt = s.flt := rfl
@[simp] theorem setHand_osc : (s.setHand x).osc = s.osc := rfl
@[simp] theorem setHand_firDec : (s.setHand x).firDec = s.firDec := rfl
@[simp] theorem setHand_firInt : (s.setHand x).firInt = s.firInt := rfl
@[simp] theorem setHand_firBit : (s.setHand x).firBit = s.firBit := rfl
@[simp] theorem setHand_iir : (s.setHand x).iir = s.iir := rfl
@[simp] theorem setHand_enc : (s.setHand x).enc = s.enc := rfl
@[simp] theorem setHand_hand : (s.setHand x).hand = x := rfl
@[simp] theorem setHand_iter : (s.setHand x).iter = s.iter := rfl
@[simp] theorem setHand_modu : (s.setHand x).modu = s.modu := rfl
@[simp] theorem setHand_proc : (s.setHand x).proc = s.proc := rfl
@[simp] theorem setHand_par : (s.setHand x).par = s.par := rfl
end

section
variable (s : State) (x : IterRegs)
@[simp] theorem setIter_cfg : (s.setIter x).cfg = s.cfg := rfl
@[simp] theorem setIter_cmd : (s.setIter x).cmd = s.cmd := rfl
@[simp] theorem setIter_fill : (s.setIter x).fill = s.fill := rfl
@[simp] theorem setIter_turns : (s.setIter x).turns = s.turns := rfl
@[simp] theorem setIter_port : (s.setIter x).port = s.port := rfl
@[simp] theorem setIter_fillJob : (s.setIter x).fillJob = s.fillJob := rfl
@[simp] theorem setIter_flt : (s.setIter x).flt = s.flt := rfl
@[simp] theorem setIter_osc : (s.setIter x).osc = s.osc := rfl
@[simp] theorem setIter_firDec : (s.setIter x).firDec = s.firDec := rfl
@[simp] theorem setIter_firInt : (s.setIter x).firInt = s.firInt := rfl
@[simp] theorem setIter_firBit : (s.setIter x).firBit = s.firBit := rfl
@[simp] theorem setIter_iir : (s.setIter x).iir = s.iir := rfl
@[simp] theorem setIter_enc : (s.setIter x).enc = s.enc := rfl
@[simp] theorem setIter_hand : (s.setIter x).hand = s.hand := rfl
@[simp] theorem setIter_iter : (s.setIter x).iter = x := rfl
@[simp] theorem setIter_modu : (s.setIter x).modu = s.modu := rfl
@[simp] theorem setIter_proc : (s.setIter x).proc = s.proc := rfl
@[simp] theorem setIter_par : (s.setIter x).par = s.par := rfl
end

section
variable (s : State) (x : ModRegs)
@[simp] theorem setModu_cfg : (s.setModu x).cfg = s.cfg := rfl
@[simp] theorem setModu_cmd : (s.setModu x).cmd = s.cmd := rfl
@[simp] theorem setModu_fill : (s.setModu x).fill = s.fill := rfl
@[simp] theorem setModu_turns : (s.setModu x).turns = s.turns := rfl
@[simp] theorem setModu_port : (s.setModu x).port = s.port := rfl
@[simp] theorem setModu_fillJob : (s.setModu x).fillJob = s.fillJob := rfl
@[simp] theorem setModu_flt : (s.setModu x).flt = s.flt := rfl
@[simp] theorem setModu_osc : (s.setModu x).osc = s.osc := rfl
@[simp] theorem setModu_firDec : (s.setModu x).firDec = s.firDec := rfl
@[simp] theorem setModu_firInt : (s.setModu x).firInt = s.firInt := rfl
@[simp] theorem setModu_firBit : (s.setModu x).firBit = s.firBit := rfl
@[simp] theorem setModu_iir : (s.setModu x).iir = s.iir := rfl
@[simp] theorem setModu_enc : (s.setModu x).enc = s.enc := rfl
@[simp] theorem setModu_hand : (s.setModu x).hand = s.hand := rfl
@[simp] theorem setModu_iter : (s.setModu x).iter = s.iter := rfl
@[simp] theorem setModu_modu : (s.setModu x).modu = x := rfl
@[simp] theorem setModu_proc : (s.setModu x).proc = s.proc := rfl
@[simp] theorem setModu_par : (s.setModu x).par = s.par := rfl
end

section
variable (s : State) (x : ProcRegs)
@[simp] theorem setProc_cfg : (s.setProc x).cfg = s.cfg := rfl
@[simp] theorem setProc_cmd : (s.setProc x).cmd = s.cmd := rfl
@[simp] theorem setProc_fill : (s.setProc x).fill = s.fill := rfl
@[simp] theorem setProc_turns : (s.setProc x).turns = s.turns := rfl
@[simp] theorem setProc_port : (s.setProc x).port = s.port := rfl
@[simp] theorem setProc_fillJob : (s.setProc x).fillJob = s.fillJob := rfl
@[simp] theorem setProc_flt : (s.setProc x).flt = s.flt := rfl
@[simp] theorem setProc_osc : (s.setProc x).osc = s.osc := rfl
@[simp] theorem setProc_firDec : (s.setProc x).firDec = s.firDec := rfl
@[simp] theorem setProc_firInt : (s.setProc x).firInt = s.firInt := rfl
@[simp] theorem setProc_firBit : (s.setProc x).firBit = s.firBit := rfl
@[simp] theorem setProc_iir : (s.setProc x).iir = s.iir := rfl
@[simp] theorem setProc_enc : (s.setProc x).enc = s.enc := rfl
@[simp] theorem setProc_hand : (s.setProc x).hand = s.hand := rfl
@[simp] theorem setProc_iter : (s.setProc x).iter = s.iter := rfl
@[simp] theorem setProc_modu : (s.setProc x).modu = s.modu := rfl
@[simp] theorem setProc_proc : (s.setProc x).proc = x := rfl
@[simp] theorem setProc_par : (s.setProc x).par = s.par := rfl
end

section
variable (s : State) (x : ParRegs)
@[simp] theorem setPar_cfg : (s.setPar x).cfg = s.cfg := rfl
@[simp] theorem setPar_cmd : (s.setPar x).cmd = s.cmd := rfl
@[simp] theorem setPar_fill : (s.setPar x).fill = s.fill := rfl
@[simp] theorem setPar_turns : (s.setPar x).turns = s.turns := rfl
@[simp] theorem setPar_port : (s.setPar x).port = s.port := rfl
@[simp] theorem setPar_fillJob : (s.setPar x).fillJob = s.fillJob := rfl
@[simp] theorem setPar_flt : (s.setPar x).flt = s.flt := rfl
@[simp] theorem setPar_osc : (s.setPar x).osc = s.osc := rfl
@[simp] theorem setPar_firDec : (s.setPar x).firDec = s.firDec := rfl
@[simp] theorem setPar_firInt : (s.setPar x).firInt = s.firInt := rfl
@[simp] theorem setPar_firBit : (s.setPar x).firBit = s.firBit := rfl
@[simp] theorem setPar_iir : (s.setPar x).iir = s.iir := rfl
@[simp] theorem setPar_enc : (s.setPar x).enc = s.enc := rfl
@[simp] theorem setPar_hand : (s.setPar x).hand = s.hand := rfl
@[simp] theorem setPar_iter : (s.setPar x).iter = s.iter := rfl
@[simp] theorem setPar_modu : (s.setPar x).modu = s.modu := rfl
@[simp] theorem setPar_proc : (s.setPar x).proc = s.proc := rfl
@[simp] theorem setPar_par : (s.setPar x).par = x := rfl
end

end Sys2Proof.Machine.State
end

