-- ==== Sys2Proof/Laws/Ops.lean ====
section
/-! SUPPORT. What each shared operation of `Machine/Ops.lean` and `Machine/Flags.lean` does: one lemma per
register group per operation, and one lemma that says each operation's effect. -/

namespace Sys2Proof.Machine

/-! ## Ports -/

@[simp] theorem State.io_setIo_same (s : State) (p : Port) (x : PortIO) :
    (s.setIo p x).io p = x := by cases p <;> rfl

theorem State.io_setIo_other (s : State) (p q : Port) (x : PortIO) (h : q ≠ p) :
    (s.setIo p x).io q = s.io q := by cases p <;> cases q <;> first | rfl | exact absurd rfl h

@[simp] theorem State.setIo_io (s : State) (p : Port) : s.setIo p (s.io p) = s := by
  cases p <;> rfl

@[simp] theorem State.setIo_setIo (s : State) (p : Port) (x y : PortIO) :
    (s.setIo p x).setIo p y = s.setIo p y := by cases p <;> rfl

@[simp] theorem State.clearDin_din (s : State) (p : Port) : ((s.clearDin p).io p).din = [] := by
  simp [State.clearDin]

@[simp] theorem State.clearDin_clearDin (s : State) (p : Port) :
    (s.clearDin p).clearDin p = s.clearDin p := by
  cases p <;> rfl

section
variable (s : State) (p : Port) (x : PortIO)
@[simp] theorem State.setIo_cfg : (s.setIo p x).cfg = s.cfg := by cases p <;> rfl
@[simp] theorem State.setIo_turns : (s.setIo p x).turns = s.turns := by cases p <;> rfl
@[simp] theorem State.setIo_port : (s.setIo p x).port = s.port := by cases p <;> rfl
@[simp] theorem State.setIo_fillJob : (s.setIo p x).fillJob = s.fillJob := by cases p <;> rfl
@[simp] theorem State.setIo_flt : (s.setIo p x).flt = s.flt := by cases p <;> rfl
@[simp] theorem State.setIo_osc : (s.setIo p x).osc = s.osc := by cases p <;> rfl
@[simp] theorem State.setIo_firDec : (s.setIo p x).firDec = s.firDec := by cases p <;> rfl
@[simp] theorem State.setIo_firInt : (s.setIo p x).firInt = s.firInt := by cases p <;> rfl
@[simp] theorem State.setIo_firBit : (s.setIo p x).firBit = s.firBit := by cases p <;> rfl
@[simp] theorem State.setIo_iir : (s.setIo p x).iir = s.iir := by cases p <;> rfl
@[simp] theorem State.setIo_enc : (s.setIo p x).enc = s.enc := by cases p <;> rfl
@[simp] theorem State.setIo_hand : (s.setIo p x).hand = s.hand := by cases p <;> rfl
@[simp] theorem State.setIo_iter : (s.setIo p x).iter = s.iter := by cases p <;> rfl
@[simp] theorem State.setIo_modu : (s.setIo p x).modu = s.modu := by cases p <;> rfl
@[simp] theorem State.setIo_proc : (s.setIo p x).proc = s.proc := by cases p <;> rfl
@[simp] theorem State.setIo_par : (s.setIo p x).par = s.par := by cases p <;> rfl
end

section
variable (s : State) (p : Port) (v : Item)
@[simp] theorem State.push_cfg : (s.push p v).cfg = s.cfg := by cases p <;> rfl
@[simp] theorem State.push_turns : (s.push p v).turns = s.turns := by cases p <;> rfl
@[simp] theorem State.push_port : (s.push p v).port = s.port := by cases p <;> rfl
@[simp] theorem State.push_fillJob : (s.push p v).fillJob = s.fillJob := by cases p <;> rfl
@[simp] theorem State.push_flt : (s.push p v).flt = s.flt := by cases p <;> rfl
@[simp] theorem State.push_osc : (s.push p v).osc = s.osc := by cases p <;> rfl
@[simp] theorem State.push_firDec : (s.push p v).firDec = s.firDec := by cases p <;> rfl
@[simp] theorem State.push_firInt : (s.push p v).firInt = s.firInt := by cases p <;> rfl
@[simp] theorem State.push_firBit : (s.push p v).firBit = s.firBit := by cases p <;> rfl
@[simp] theorem State.push_iir : (s.push p v).iir = s.iir := by cases p <;> rfl
@[simp] theorem State.push_enc : (s.push p v).enc = s.enc := by cases p <;> rfl
@[simp] theorem State.push_hand : (s.push p v).hand = s.hand := by cases p <;> rfl
@[simp] theorem State.push_iter : (s.push p v).iter = s.iter := by cases p <;> rfl
@[simp] theorem State.push_modu : (s.push p v).modu = s.modu := by cases p <;> rfl
@[simp] theorem State.push_proc : (s.push p v).proc = s.proc := by cases p <;> rfl
@[simp] theorem State.push_par : (s.push p v).par = s.par := by cases p <;> rfl
end

section
variable (s : State) (p : Port) (vs : List Item)
@[simp] theorem State.pushAll_cfg : (s.pushAll p vs).cfg = s.cfg := by cases p <;> rfl
@[simp] theorem State.pushAll_turns : (s.pushAll p vs).turns = s.turns := by cases p <;> rfl
@[simp] theorem State.pushAll_port : (s.pushAll p vs).port = s.port := by cases p <;> rfl
@[simp] theorem State.pushAll_fillJob : (s.pushAll p vs).fillJob = s.fillJob := by cases p <;> rfl
@[simp] theorem State.pushAll_flt : (s.pushAll p vs).flt = s.flt := by cases p <;> rfl
@[simp] theorem State.pushAll_osc : (s.pushAll p vs).osc = s.osc := by cases p <;> rfl
@[simp] theorem State.pushAll_firDec : (s.pushAll p vs).firDec = s.firDec := by cases p <;> rfl
@[simp] theorem State.pushAll_firInt : (s.pushAll p vs).firInt = s.firInt := by cases p <;> rfl
@[simp] theorem State.pushAll_firBit : (s.pushAll p vs).firBit = s.firBit := by cases p <;> rfl
@[simp] theorem State.pushAll_iir : (s.pushAll p vs).iir = s.iir := by cases p <;> rfl
@[simp] theorem State.pushAll_enc : (s.pushAll p vs).enc = s.enc := by cases p <;> rfl
@[simp] theorem State.pushAll_hand : (s.pushAll p vs).hand = s.hand := by cases p <;> rfl
@[simp] theorem State.pushAll_iter : (s.pushAll p vs).iter = s.iter := by cases p <;> rfl
@[simp] theorem State.pushAll_modu : (s.pushAll p vs).modu = s.modu := by cases p <;> rfl
@[simp] theorem State.pushAll_proc : (s.pushAll p vs).proc = s.proc := by cases p <;> rfl
@[simp] theorem State.pushAll_par : (s.pushAll p vs).par = s.par := by cases p <;> rfl
end

section
variable (s : State) (p : Port)
@[simp] theorem State.clearDin_cfg : (s.clearDin p).cfg = s.cfg := by cases p <;> rfl
@[simp] theorem State.clearDin_turns : (s.clearDin p).turns = s.turns := by cases p <;> rfl
@[simp] theorem State.clearDin_port : (s.clearDin p).port = s.port := by cases p <;> rfl
@[simp] theorem State.clearDin_fillJob : (s.clearDin p).fillJob = s.fillJob := by cases p <;> rfl
@[simp] theorem State.clearDin_flt : (s.clearDin p).flt = s.flt := by cases p <;> rfl
@[simp] theorem State.clearDin_osc : (s.clearDin p).osc = s.osc := by cases p <;> rfl
@[simp] theorem State.clearDin_firDec : (s.clearDin p).firDec = s.firDec := by cases p <;> rfl
@[simp] theorem State.clearDin_firInt : (s.clearDin p).firInt = s.firInt := by cases p <;> rfl
@[simp] theorem State.clearDin_firBit : (s.clearDin p).firBit = s.firBit := by cases p <;> rfl
@[simp] theorem State.clearDin_iir : (s.clearDin p).iir = s.iir := by cases p <;> rfl
@[simp] theorem State.clearDin_enc : (s.clearDin p).enc = s.enc := by cases p <;> rfl
@[simp] theorem State.clearDin_hand : (s.clearDin p).hand = s.hand := by cases p <;> rfl
@[simp] theorem State.clearDin_iter : (s.clearDin p).iter = s.iter := by cases p <;> rfl
@[simp] theorem State.clearDin_modu : (s.clearDin p).modu = s.modu := by cases p <;> rfl
@[simp] theorem State.clearDin_proc : (s.clearDin p).proc = s.proc := by cases p <;> rfl
@[simp] theorem State.clearDin_par : (s.clearDin p).par = s.par := by cases p <;> rfl
end

section
variable (s : State) (p : Port) (t : Txn) (rest : List Txn)
@[simp] theorem State.deliver_cfg : (s.deliver p t rest).cfg = s.cfg := by cases p <;> rfl
@[simp] theorem State.deliver_turns : (s.deliver p t rest).turns = s.turns := by cases p <;> rfl
@[simp] theorem State.deliver_fillJob : (s.deliver p t rest).fillJob = s.fillJob := by cases p <;> rfl
@[simp] theorem State.deliver_flt : (s.deliver p t rest).flt = s.flt := by cases p <;> rfl
@[simp] theorem State.deliver_osc : (s.deliver p t rest).osc = s.osc := by cases p <;> rfl
@[simp] theorem State.deliver_firDec : (s.deliver p t rest).firDec = s.firDec := by cases p <;> rfl
@[simp] theorem State.deliver_firInt : (s.deliver p t rest).firInt = s.firInt := by cases p <;> rfl
@[simp] theorem State.deliver_firBit : (s.deliver p t rest).firBit = s.firBit := by cases p <;> rfl
@[simp] theorem State.deliver_iir : (s.deliver p t rest).iir = s.iir := by cases p <;> rfl
@[simp] theorem State.deliver_enc : (s.deliver p t rest).enc = s.enc := by cases p <;> rfl
@[simp] theorem State.deliver_hand : (s.deliver p t rest).hand = s.hand := by cases p <;> rfl
@[simp] theorem State.deliver_iter : (s.deliver p t rest).iter = s.iter := by cases p <;> rfl
@[simp] theorem State.deliver_modu : (s.deliver p t rest).modu = s.modu := by cases p <;> rfl
@[simp] theorem State.deliver_proc : (s.deliver p t rest).proc = s.proc := by cases p <;> rfl
@[simp] theorem State.deliver_par : (s.deliver p t rest).par = s.par := by cases p <;> rfl
end

/-! ## Events -/

section
variable (s : State) (e : Event)
@[simp] theorem State.emit_cfg : (s.emit e).cfg = s.cfg := rfl
@[simp] theorem State.emit_cmd : (s.emit e).cmd = s.cmd := rfl
@[simp] theorem State.emit_fill : (s.emit e).fill = s.fill := rfl
@[simp] theorem State.emit_turns : (s.emit e).turns = s.turns := rfl
@[simp] theorem State.emit_port : (s.emit e).port = s.port := rfl
@[simp] theorem State.emit_fillJob : (s.emit e).fillJob = s.fillJob := rfl
@[simp] theorem State.emit_osc : (s.emit e).osc = s.osc := rfl
@[simp] theorem State.emit_firDec : (s.emit e).firDec = s.firDec := rfl
@[simp] theorem State.emit_firInt : (s.emit e).firInt = s.firInt := rfl
@[simp] theorem State.emit_firBit : (s.emit e).firBit = s.firBit := rfl
@[simp] theorem State.emit_iir : (s.emit e).iir = s.iir := rfl
@[simp] theorem State.emit_enc : (s.emit e).enc = s.enc := rfl
@[simp] theorem State.emit_hand : (s.emit e).hand = s.hand := rfl
@[simp] theorem State.emit_iter : (s.emit e).iter = s.iter := rfl
@[simp] theorem State.emit_modu : (s.emit e).modu = s.modu := rfl
@[simp] theorem State.emit_proc : (s.emit e).proc = s.proc := rfl
@[simp] theorem State.emit_par : (s.emit e).par = s.par := rfl
end

section
variable (s : State) 
@[simp] theorem State.halt_cfg : (s.halt).cfg = s.cfg := rfl
@[simp] theorem State.halt_cmd : (s.halt).cmd = s.cmd := rfl
@[simp] theorem State.halt_fill : (s.halt).fill = s.fill := rfl
@[simp] theorem State.halt_turns : (s.halt).turns = s.turns := rfl
@[simp] theorem State.halt_port : (s.halt).port = s.port := rfl
@[simp] theorem State.halt_fillJob : (s.halt).fillJob = s.fillJob := rfl
@[simp] theorem State.halt_osc : (s.halt).osc = s.osc := rfl
@[simp] theorem State.halt_firDec : (s.halt).firDec = s.firDec := rfl
@[simp] theorem State.halt_firInt : (s.halt).firInt = s.firInt := rfl
@[simp] theorem State.halt_firBit : (s.halt).firBit = s.firBit := rfl
@[simp] theorem State.halt_iir : (s.halt).iir = s.iir := rfl
@[simp] theorem State.halt_enc : (s.halt).enc = s.enc := rfl
@[simp] theorem State.halt_hand : (s.halt).hand = s.hand := rfl
@[simp] theorem State.halt_iter : (s.halt).iter = s.iter := rfl
@[simp] theorem State.halt_modu : (s.halt).modu = s.modu := rfl
@[simp] theorem State.halt_proc : (s.halt).proc = s.proc := rfl
@[simp] theorem State.halt_par : (s.halt).par = s.par := rfl
end

@[simp] theorem State.emit_evt (s : State) (e : Event) : (s.emit e).flt.evt = s.flt.evt ++ [e] := rfl
@[simp] theorem State.emit_fault (s : State) (e : Event) :
    (s.emit e).flt.fault = s.flt.fault ||| e.faultBit := rfl
@[simp] theorem State.emit_halted (s : State) (e : Event) :
    (s.emit e).flt.halted = s.flt.halted := rfl
@[simp] theorem State.halt_evt (s : State) : s.halt.flt.evt = s.flt.evt := rfl
@[simp] theorem State.halt_fault (s : State) : s.halt.flt.fault = s.flt.fault := rfl
@[simp] theorem State.halt_halted (s : State) : s.halt.flt.halted = true := rfl

/-! ## FIR instances and slots -/

@[simp] theorem State.fir_setFir_same (s : State) (f : FirInst) (x : FirRegs) :
    (s.setFir f x).fir f = x := by cases f <;> rfl

theorem State.fir_setFir_other (s : State) (f g : FirInst) (x : FirRegs) (h : g ≠ f) :
    (s.setFir f x).fir g = s.fir g := by cases f <;> cases g <;> first | rfl | exact absurd rfl h

section
variable (s : State) (f : FirInst) (x : FirRegs)
@[simp] theorem State.setFir_cfg : (s.setFir f x).cfg = s.cfg := by cases f <;> rfl
@[simp] theorem State.setFir_cmd : (s.setFir f x).cmd = s.cmd := by cases f <;> rfl
@[simp] theorem State.setFir_fill : (s.setFir f x).fill = s.fill := by cases f <;> rfl
@[simp] theorem State.setFir_turns : (s.setFir f x).turns = s.turns := by cases f <;> rfl
@[simp] theorem State.setFir_port : (s.setFir f x).port = s.port := by cases f <;> rfl
@[simp] theorem State.setFir_fillJob : (s.setFir f x).fillJob = s.fillJob := by cases f <;> rfl
@[simp] theorem State.setFir_flt : (s.setFir f x).flt = s.flt := by cases f <;> rfl
@[simp] theorem State.setFir_osc : (s.setFir f x).osc = s.osc := by cases f <;> rfl
@[simp] theorem State.setFir_iir : (s.setFir f x).iir = s.iir := by cases f <;> rfl
@[simp] theorem State.setFir_enc : (s.setFir f x).enc = s.enc := by cases f <;> rfl
@[simp] theorem State.setFir_hand : (s.setFir f x).hand = s.hand := by cases f <;> rfl
@[simp] theorem State.setFir_iter : (s.setFir f x).iter = s.iter := by cases f <;> rfl
@[simp] theorem State.setFir_modu : (s.setFir f x).modu = s.modu := by cases f <;> rfl
@[simp] theorem State.setFir_proc : (s.setFir f x).proc = s.proc := by cases f <;> rfl
@[simp] theorem State.setFir_par : (s.setFir f x).par = s.par := by cases f <;> rfl
end

@[simp] theorem State.setCmd_fir (s : State) (x : PortIO) (f : FirInst) :
    (s.setCmd x).fir f = s.fir f := by cases f <;> rfl
@[simp] theorem State.setFill_fir (s : State) (x : PortIO) (f : FirInst) :
    (s.setFill x).fir f = s.fir f := by cases f <;> rfl
@[simp] theorem State.setTurns_fir (s : State) (x : List Turn) (f : FirInst) :
    (s.setTurns x).fir f = s.fir f := by cases f <;> rfl
@[simp] theorem State.setPort_fir (s : State) (x : Port) (f : FirInst) :
    (s.setPort x).fir f = s.fir f := by cases f <;> rfl
@[simp] theorem State.setFillJob_fir (s : State) (x : Option FillJob) (f : FirInst) :
    (s.setFillJob x).fir f = s.fir f := by cases f <;> rfl
@[simp] theorem State.setFlt_fir (s : State) (x : FaultRegs) (f : FirInst) :
    (s.setFlt x).fir f = s.fir f := by cases f <;> rfl
@[simp] theorem State.setOsc_fir (s : State) (x : OscRegs) (f : FirInst) :
    (s.setOsc x).fir f = s.fir f := by cases f <;> rfl
@[simp] theorem State.setIir_fir (s : State) (x : IirRegs) (f : FirInst) :
    (s.setIir x).fir f = s.fir f := by cases f <;> rfl
@[simp] theorem State.setEnc_fir (s : State) (x : EncRegs) (f : FirInst) :
    (s.setEnc x).fir f = s.fir f := by cases f <;> rfl
@[simp] theorem State.setHand_fir (s : State) (x : HandRegs) (f : FirInst) :
    (s.setHand x).fir f = s.fir f := by cases f <;> rfl
@[simp] theorem State.setIter_fir (s : State) (x : IterRegs) (f : FirInst) :
    (s.setIter x).fir f = s.fir f := by cases f <;> rfl
@[simp] theorem State.setModu_fir (s : State) (x : ModRegs) (f : FirInst) :
    (s.setModu x).fir f = s.fir f := by cases f <;> rfl
@[simp] theorem State.setProc_fir (s : State) (x : ProcRegs) (f : FirInst) :
    (s.setProc x).fir f = s.fir f := by cases f <;> rfl
@[simp] theorem State.setPar_fir (s : State) (x : ParRegs) (f : FirInst) :
    (s.setPar x).fir f = s.fir f := by cases f <;> rfl
@[simp] theorem State.setIo_fir (s : State) (p : Port) (x : PortIO) (f : FirInst) :
    (s.setIo p x).fir f = s.fir f := by cases p <;> cases f <;> rfl
@[simp] theorem State.push_fir (s : State) (p : Port) (v : Item) (f : FirInst) :
    (s.push p v).fir f = s.fir f := by cases p <;> cases f <;> rfl
@[simp] theorem State.pushAll_fir (s : State) (p : Port) (vs : List Item) (f : FirInst) :
    (s.pushAll p vs).fir f = s.fir f := by cases p <;> cases f <;> rfl
@[simp] theorem State.clearDin_fir (s : State) (p : Port) (f : FirInst) :
    (s.clearDin p).fir f = s.fir f := by cases p <;> cases f <;> rfl
@[simp] theorem State.emit_fir (s : State) (e : Event) (f : FirInst) :
    (s.emit e).fir f = s.fir f := by cases f <;> rfl
@[simp] theorem State.halt_fir (s : State) (f : FirInst) :
    s.halt.fir f = s.fir f := by cases f <;> rfl
@[simp] theorem State.setTurns_io (s : State) (x : List Turn) (p : Port) :
    (s.setTurns x).io p = s.io p := by cases p <;> rfl
@[simp] theorem State.setPort_io (s : State) (x : Port) (p : Port) :
    (s.setPort x).io p = s.io p := by cases p <;> rfl
@[simp] theorem State.setFillJob_io (s : State) (x : Option FillJob) (p : Port) :
    (s.setFillJob x).io p = s.io p := by cases p <;> rfl
@[simp] theorem State.setFlt_io (s : State) (x : FaultRegs) (p : Port) :
    (s.setFlt x).io p = s.io p := by cases p <;> rfl
@[simp] theorem State.setOsc_io (s : State) (x : OscRegs) (p : Port) :
    (s.setOsc x).io p = s.io p := by cases p <;> rfl
@[simp] theorem State.setFirDec_io (s : State) (x : FirRegs) (p : Port) :
    (s.setFirDec x).io p = s.io p := by cases p <;> rfl
@[simp] theorem State.setFirInt_io (s : State) (x : FirRegs) (p : Port) :
    (s.setFirInt x).io p = s.io p := by cases p <;> rfl
@[simp] theorem State.setFirBit_io (s : State) (x : FirRegs) (p : Port) :
    (s.setFirBit x).io p = s.io p := by cases p <;> rfl
@[simp] theorem State.setIir_io (s : State) (x : IirRegs) (p : Port) :
    (s.setIir x).io p = s.io p := by cases p <;> rfl
@[simp] theorem State.setEnc_io (s : State) (x : EncRegs) (p : Port) :
    (s.setEnc x).io p = s.io p := by cases p <;> rfl
@[simp] theorem State.setHand_io (s : State) (x : HandRegs) (p : Port) :
    (s.setHand x).io p = s.io p := by cases p <;> rfl
@[simp] theorem State.setIter_io (s : State) (x : IterRegs) (p : Port) :
    (s.setIter x).io p = s.io p := by cases p <;> rfl
@[simp] theorem State.setModu_io (s : State) (x : ModRegs) (p : Port) :
    (s.setModu x).io p = s.io p := by cases p <;> rfl
@[simp] theorem State.setProc_io (s : State) (x : ProcRegs) (p : Port) :
    (s.setProc x).io p = s.io p := by cases p <;> rfl
@[simp] theorem State.setPar_io (s : State) (x : ParRegs) (p : Port) :
    (s.setPar x).io p = s.io p := by cases p <;> rfl
@[simp] theorem State.setFir_io (s : State) (f : FirInst) (x : FirRegs) (p : Port) :
    (s.setFir f x).io p = s.io p := by cases p <;> cases f <;> rfl
@[simp] theorem State.emit_io (s : State) (e : Event) (p : Port) :
    (s.emit e).io p = s.io p := by cases p <;> rfl

@[simp] theorem Slot.other_other (sl : Slot) : sl.other.other = sl := by cases sl <;> rfl

theorem Slot.other_ne (sl : Slot) : sl.other ≠ sl := by cases sl <;> simp [Slot.other]

@[simp] theorem HandRegs.buf_setBuf_same (h : HandRegs) (sl : Slot) (ws : List Word10) :
    (h.setBuf sl ws).buf sl = ws := by cases sl <;> rfl

theorem HandRegs.buf_setBuf_other (h : HandRegs) (sl tl : Slot) (ws : List Word10) (hne : tl ≠ sl) :
    (h.setBuf sl ws).buf tl = h.buf tl := by
  cases sl <;> cases tl <;> first | rfl | exact absurd rfl hne

@[simp] theorem HandRegs.setBuf_ready (h : HandRegs) (sl : Slot) (ws : List Word10) :
    (h.setBuf sl ws).ready = h.ready := by cases sl <;> rfl
@[simp] theorem HandRegs.setBuf_fillState (h : HandRegs) (sl : Slot) (ws : List Word10) :
    (h.setBuf sl ws).fillState = h.fillState := by cases sl <;> rfl
@[simp] theorem HandRegs.setBuf_active (h : HandRegs) (sl : Slot) (ws : List Word10) :
    (h.setBuf sl ws).active = h.active := by cases sl <;> rfl

/-! ## Refusing and accepting a command -/

section
variable (s : State) (p : Port) (e : Event)
@[simp] theorem refuse_cfg : (refuse p e s).cfg = s.cfg := by cases p <;> rfl
@[simp] theorem refuse_turns : (refuse p e s).turns = s.turns := by cases p <;> rfl
@[simp] theorem refuse_port : (refuse p e s).port = s.port := by cases p <;> rfl
@[simp] theorem refuse_fillJob : (refuse p e s).fillJob = s.fillJob := by cases p <;> rfl
@[simp] theorem refuse_osc : (refuse p e s).osc = s.osc := by cases p <;> rfl
@[simp] theorem refuse_firDec : (refuse p e s).firDec = s.firDec := by cases p <;> rfl
@[simp] theorem refuse_firInt : (refuse p e s).firInt = s.firInt := by cases p <;> rfl
@[simp] theorem refuse_firBit : (refuse p e s).firBit = s.firBit := by cases p <;> rfl
@[simp] theorem refuse_iir : (refuse p e s).iir = s.iir := by cases p <;> rfl
@[simp] theorem refuse_enc : (refuse p e s).enc = s.enc := by cases p <;> rfl
@[simp] theorem refuse_hand : (refuse p e s).hand = s.hand := by cases p <;> rfl
@[simp] theorem refuse_iter : (refuse p e s).iter = s.iter := by cases p <;> rfl
@[simp] theorem refuse_modu : (refuse p e s).modu = s.modu := by cases p <;> rfl
@[simp] theorem refuse_proc : (refuse p e s).proc = s.proc := by cases p <;> rfl
@[simp] theorem refuse_par : (refuse p e s).par = s.par := by cases p <;> rfl
end

@[simp] theorem refuse_flt (s : State) (p : Port) (e : Event) :
    (refuse p e s).flt = s.flt.emit e := by cases p <;> rfl

/-- A legal command runs its body. -/
theorem guarded_of_legal {p : Port} {i : Instr} {s : State} {body : State → State}
    (h : legal p i s = true) : guarded p i s body = body s := by simp [guarded, h]

/-- An illegal command is refused with `CMD_ILLEGAL` of its word. -/
theorem guarded_of_illegal {p : Port} {i : Instr} {s : State} {body : State → State}
    (h : legal p i s = false) :
    guarded p i s body = refuse p (.cmdIllegal (encode i)) s := by simp [guarded, h]

/-- A legal command runs on the operands it pops. -/
theorem accept_of_legal {p : Port} {i : Instr} {s : State} {body : List Item → State → State}
    (h : legal p i s = true) :
    accept p i s body = body (s.io p).din (s.clearDin p) := guarded_of_legal h

/-- An illegal command is refused with `CMD_ILLEGAL` of its word. -/
theorem accept_of_illegal {p : Port} {i : Instr} {s : State} {body : List Item → State → State}
    (h : legal p i s = false) :
    accept p i s body = refuse p (.cmdIllegal (encode i)) s := guarded_of_illegal h

/-- The parts of legality (R104). -/
theorem legal_iff {p : Port} {i : Instr} {s : State} :
    legal p i s = true ↔
      i.wellFormed s.cfg = true ∧ portAllows p i = true ∧
      (s.flt.halted = false ∨ haltAllows i = true) ∧ fillAllows s i = true ∧
      kindsMatch s.cfg.num (rowDin s.cfg i) (s.io p).din = true := by
  simp [legal, and_assoc]

/-! ## Loops -/

@[simp] theorem runList_nil {α : Type} (f : Nat → α → State → Num × State) (k : Nat) (s : State) :
    runList f k [] s = ([], s) := rfl

/-- A loop keeps what each of its iterations keeps. -/
theorem runList_keeps {α : Type} {P : State → Prop} {f : Nat → α → State → Num × State}
    (hf : ∀ k x s, P s → P (f k x s).2) :
    ∀ (xs : List α) (k : Nat) (s : State), P s → P (runList f k xs s).2
  | [], _, _, h => h
  | x :: xs, k, s, h => runList_keeps hf xs (k + 1) _ (hf k x s h)

/-- A loop returns one number for each item. -/
theorem runList_length {α : Type} (f : Nat → α → State → Num × State) :
    ∀ (xs : List α) (k : Nat) (s : State), (runList f k xs s).1.length = xs.length
  | [], _, _ => rfl
  | x :: xs, k, s => by simp [runList, runList_length f xs]

end Sys2Proof.Machine
end

