-- ==== Sys2Proof/Laws/Preserve.lean ====
section
/-! SUPPORT. What one step can do to the state, said once: `Kept P` lists the updates the machine is
made of, each with what holds when it is made, and `step_keeps` says that a property every update of the
list keeps is kept by every step. An invariant is proved by giving its `Kept`. -/

namespace Sys2Proof.Machine

/-- `P` is kept by every update FILLER makes: queues, schedule, events that neither latch nor halt, the
encoder's registers, the three steps of FRAME.FILL. -/
structure FillKept (P : State → Prop) : Prop where
  io : ∀ s p x, P s → P (s.setIo p x)
  turns : ∀ s x, P s → P (s.setTurns x)
  event : ∀ s e, e ≠ .iirOvf → (∀ n, e ≠ .periodMismatch n) → P s → P (s.emit e)
  clearParity : ∀ s, P s → P (s.setEnc s.enc.clearParity)
  rsUpdate : ∀ s d, P s → P (s.setEnc { s.enc with parity := rsUpdate s.cfg s.enc.parity d })
  setRd : ∀ s rd, P s → P (s.setEnc { s.enc with rd := rd })
  encode : ∀ s payload, P s → P (s.setEnc (encodeFrame s.cfg s.enc.rd payload).2)
  claim : ∀ s, s.hand.fillState = .requested → P s → P (fillClaim s)
  write : ∀ s p slot, s.fillJob = some (.claimed slot) → P s → P (fillWrite p slot s)
  publish : ∀ s slot, s.fillJob = some (.written slot) → P s → P (fillPublish slot s)

/-- `P` is kept by every update of the machine but the fatal event and reset, which `Kept.exec` and
`step_keeps` ask for by themselves. -/
structure Kept (P : State → Prop) : Prop extends FillKept P where
  port : ∀ s p, P s → P (s.setPort p)
  oscRestart : ∀ s freq, P s → P (oscRestart freq s)
  oscNext : ∀ s sel, P s → P (oscNext sel s).2
  firClear : ∀ s f, P s → P (firClear f s)
  firStep : ∀ s f x, P s → P (firStep f x s).2
  firLoad : ∀ s f k v, P s → P (s.setFir f { s.fir f with coef := (s.fir f).coef.set k (some v) })
  firFill : ∀ s f (cs : List Num), cs.length = s.cfg.firLen f → P s →
    P (s.setFir f { s.fir f with coef := cs.map some })
  iirZero : ∀ s, P s → P (s.setIir s.iir.zeroed)
  iirGuard : ∀ s, P s → P (iirGuard s)
  iirRun : ∀ s x, P s → P (s.setIir (iirRun s.cfg.num s.iir x).2)
  iirLoad : ∀ s k v cid, P s →
    P (s.setIir { s.iir with coefs := s.iir.coefs.modify k fun c => c.load v cid })
  iirSetn : ∀ s n, 1 ≤ n → n ≤ s.cfg.iirMaxSections → P s → P (s.setIir { s.iir with nsec := some n })
  latch : ∀ s, P s → P (s.setHand s.hand.latch)
  cross : ∀ s, s.iter.bitsSent = 10 → P s → P (crossBoundary s)
  nextWord : ∀ s, s.iter.bitsSent = 10 → atBoundary s = false → P s →
    P (s.setIter { s.iter with bitsSent := 0, wordsSent := s.iter.wordsSent + 1 })
  takeBit : ∀ s, s.iter.bitsSent ≠ 10 → P s →
    P (s.setIter { s.iter with bitsSent := s.iter.bitsSent + 1 })
  modRestart : ∀ s n, 1 ≤ n → n ≤ s.par.sampleRate → P s → P (modRestart n s)
  modStart : ∀ s b, P s → P (s.setModu (s.modu.start b))
  modTick : ∀ s, s.modu.samplesSent = 0 ∨ s.modu.samplesSent < s.modu.samplesPerBit.getD 0 → P s →
    P (s.setModu { s.modu with samplesSent := s.modu.samplesSent + 1 })
  clipLatch : ∀ s b, P s → P (s.setProc { s.proc with clipLogged := b })
  peakReset : ∀ s, P s → P (s.setProc { s.proc with peak := 0, measCount := 0 })
  peakRaise : ∀ s x, P s → P (s.setProc { s.proc with peak := numAbs x })
  keyLatch : ∀ s, P s → P (s.setProc { s.proc with curKey := some (modeKeyOf s.par) })
  window : ∀ s, P s → P (measureWindow s)
  timing : ∀ s dt, 0 ≤ dt → P s → P (loopTiming dt s)
  parSet : ∀ s v r x, parWrite s.par v r = some x → P s → P (s.setPar x)

/-! ## Small facts about the operations -/

/-- A list of tests finds no failure exactly when every test passes. -/
theorem firstFailure_none {l : List (Bool × Nat)} :
    firstFailure l = none ↔ ∀ x ∈ l, x.1 = false := by
  induction l with
  | nil => simp [firstFailure]
  | cons a l ih =>
    obtain ⟨b, n⟩ := a
    cases b <;> simp [firstFailure, ih]

/-- Each item of a frame that matches a row has the kind the row asks for. -/
theorem operand_kind {f : NumFormat} : ∀ {ks : List ItemKind} {xs : List Item} {k : Nat} {kd : ItemKind},
    kindsMatch f ks xs = true → ks[k]? = some kd → (operand xs k).hasKind f kd = true
  | [], [], _, _, _, h => by simp at h
  | [], _ :: _, _, _, h, _ => by simp [kindsMatch] at h
  | _ :: _, [], _, _, h, _ => by simp [kindsMatch] at h
  | _ :: _, _ :: _, 0, _, hm, h => by
    simp only [kindsMatch, Bool.and_eq_true] at hm
    simp only [List.getElem?_cons_zero, Option.some.injEq] at h
    subst h
    simpa [operand] using hm.1
  | _ :: _, _ :: xs, k + 1, _, hm, h => by
    simp only [kindsMatch, Bool.and_eq_true] at hm
    simp only [List.getElem?_cons_succ] at h
    simpa [operand] using operand_kind hm.2 h

/-- A duration item is not negative. -/
theorem durationVal_nonneg {f : NumFormat} {x : Item} (h : x.hasKind f .duration = true) :
    0 ≤ x.durationVal := by
  cases x <;> simp_all [Item.hasKind, Item.durationVal]

/-- The duration of a legal period is not negative. -/
theorem period_duration_nonneg {p : Port} {n : BitVec 20} {s : State}
    (h : legal p (.procPeriod n) s = true) :
    0 ≤ (operand (s.io p).din n.toNat).durationVal := by
  have hm := (legal_iff.1 h).2.2.2.2
  refine durationVal_nonneg (f := s.cfg.num) (operand_kind hm ?_)
  simp [rowDin]

theorem samplesPerBitOf_le (a b c : Nat) : samplesPerBitOf a b c ≤ a :=
  (Nat.div_le_self _ _).trans (Nat.div_le_self _ _)

/-- A telemetry configuration that passes its tests has at least one sample in a bit. -/
theorem samplesPerBit_pos_of_checks {s : State} {d : Nat}
    (h : ∀ x ∈ telemChecks s d, x.1 = false) :
    1 ≤ samplesPerBitOf s.par.sampleRate (s.par.bps.getD 0) d := by
  have := h (decide (samplesPerBitOf s.par.sampleRate (s.par.bps.getD 0) d < 1), 0x131)
    (by simp [telemChecks])
  simp at this
  omega

/-- The resets of a mode entry leave the parameter store alone. -/
@[simp] theorem entryCommon_par (s : State) : (entryCommon s).par = s.par := by
  simp [entryCommon, firClear]

/-! ## Moves of FILLER -/

section Fill
variable {P : State → Prop}

theorem FillKept.clearDin (K : FillKept P) {s : State} {p : Port} (h : P s) : P (s.clearDin p) :=
  K.io _ _ _ h

theorem FillKept.push (K : FillKept P) {s : State} {p : Port} {v : Item} (h : P s) : P (s.push p v) :=
  K.io _ _ _ h

theorem FillKept.pushAll (K : FillKept P) {s : State} {p : Port} {vs : List Item} (h : P s) :
    P (s.pushAll p vs) := K.io _ _ _ h

theorem FillKept.refuse (K : FillKept P) {s : State} {p : Port} {e : Event} (h1 : e ≠ .iirOvf)
    (h6 : ∀ n, e ≠ .periodMismatch n) (h : P s) : P (refuse p e s) :=
  K.clearDin (K.event _ _ h1 h6 h)

/-- Illegal commands are refused; a legal one keeps `P` when its body does. -/
theorem FillKept.guarded (K : FillKept P) {p : Port} {i : Instr} {s : State} {body : State → State}
    (h : P s) (hb : legal p i s = true → P (body s)) : P (guarded p i s body) := by
  unfold Machine.guarded
  split
  · exact hb ‹_›
  · exact K.refuse (by simp) (by simp) h

/-- As `FillKept.guarded`, the frame popped. -/
theorem FillKept.accept (K : FillKept P) {p : Port} {i : Instr} {s : State}
    {body : List Item → State → State} (h : P s)
    (hb : legal p i s = true → P (s.clearDin p) → P (body (s.io p).din (s.clearDin p))) :
    P (accept p i s body) := K.guarded h fun hl => hb hl (K.clearDin h)

@[simp] theorem takeFillTurn_fillJob (s : State) : (takeFillTurn s).fillJob = s.fillJob := by
  unfold takeFillTurn
  split <;> simp

theorem FillKept.takeFillTurn (K : FillKept P) {s : State} (h : P s) : P (takeFillTurn s) := by
  unfold Machine.takeFillTurn
  split
  · exact K.turns _ _ h
  all_goals exact h

theorem FillKept.fillFinish (K : FillKept P) {s : State} {slot : Slot}
    (hj : s.fillJob = some (.written slot)) (h : P s) : P (fillFinish slot s) := by
  unfold Machine.fillFinish
  split
  · exact h
  · exact K.publish _ _ (by simpa using hj) (K.takeFillTurn h)

theorem FillKept.fillContinue (K : FillKept P) {s : State} {p : Port} {slot : Slot}
    (hj : s.fillJob = some (.claimed slot)) (h : P s) : P (fillContinue p slot s) := by
  unfold Machine.fillContinue
  split
  · exact h
  · exact K.fillFinish rfl (K.write _ _ _ (by simpa using hj) (K.takeFillTurn h))

theorem FillKept.fillResume (K : FillKept P) {s : State} {j : FillJob} (hj : s.fillJob = some j)
    (h : P s) : P (fillResume j s) := by
  cases j with
  | claimed slot => exact K.fillFinish rfl (K.write _ _ _ hj h)
  | written slot => exact K.publish _ _ hj h

/-- The operation that goes on is the one in progress, and the block is not halted. -/
theorem activeJob_some {s : State} {j : FillJob} (h : activeJob s = some j) :
    s.fillJob = some j ∧ s.flt.halted = false := by
  unfold activeJob at h
  split at h <;> simp_all

theorem FillKept.nop (K : FillKept P) {s : State} (p : Port) (h : P s) : P (nopOn p s) :=
  K.accept h fun _ h => h

theorem FillKept.rsClear (K : FillKept P) {s : State} (p : Port) (h : P s) : P (rsClearOn p s) :=
  K.accept h fun _ h => K.clearParity _ h

theorem FillKept.rsUpdateOn (K : FillKept P) {s : State} (p : Port) (d : Byte) (h : P s) :
    P (rsUpdateOn p d s) := K.accept h fun _ h => K.rsUpdate _ _ h

theorem FillKept.rsRead (K : FillKept P) {s : State} (p : Port) (i : BitVec 5) (h : P s) :
    P (rsReadOn p i s) := K.accept h fun _ h => K.push h

theorem FillKept.encReset (K : FillKept P) {s : State} (p : Port) (h : P s) : P (encResetOn p s) :=
  K.accept h fun _ h => K.setRd _ _ h

theorem FillKept.encByte (K : FillKept P) {s : State} (p : Port) (v : Byte) (h : P s) :
    P (encByteOn p v s) := K.accept h fun _ h => K.push (K.setRd _ _ h)

theorem FillKept.encSync (K : FillKept P) {s : State} (p : Port) (h : P s) : P (encSyncOn p s) :=
  K.accept h fun _ h => K.push (K.setRd _ _ h)

theorem FillKept.frameEncode (K : FillKept P) {s : State} (p : Port) (h : P s) :
    P (frameEncodeOn p s) := K.accept h fun _ h => K.pushAll (K.encode _ _ h)

theorem FillKept.frameFill (K : FillKept P) {s : State} (p : Port) (h : P s) :
    P (frameFillOn p s) :=
  K.guarded h fun hl => K.fillContinue rfl <| K.claim _ (by
    have := (legal_iff.1 hl).2.2.2.1
    simpa [fillAllows, State.fillRequested] using this) h

theorem FillKept.frameRdy (K : FillKept P) {s : State} (p : Port) (h : P s) : P (frameRdyOn p s) :=
  K.accept h fun _ h => K.push h

theorem FillKept.framePoll (K : FillKept P) {s : State} (p : Port) (h : P s) :
    P (framePollOn p s) := K.accept h fun _ h => K.push h

theorem FillKept.faultGet (K : FillKept P) {s : State} (p : Port) (h : P s) :
    P (faultGetOn p s) := K.accept h fun _ h => K.push h

theorem FillKept.fillExec (K : FillKept P) {s : State} (i : Instr) (h : P s) : P (fillExec i s) := by
  cases i <;> first
    | exact K.refuse (by simp) (by simp) h
    | exact K.nop _ h
    | exact K.rsClear _ h
    | exact K.rsUpdateOn _ _ h
    | exact K.rsRead _ _ h
    | exact K.encReset _ h
    | exact K.encByte _ _ h
    | exact K.encSync _ h
    | exact K.frameEncode _ h
    | exact K.frameFill _ h
    | exact K.frameRdy _ h
    | exact K.framePoll _ h
    | exact K.faultGet _ h

theorem FillKept.fillCommand (K : FillKept P) {s : State} (w : Word) (h : P s) :
    P (fillCommand w s) := by
  unfold Machine.fillCommand
  split
  · exact K.refuse (by simp) (by simp) h
  · exact K.fillExec _ h

theorem FillKept.fillMove (K : FillKept P) {s : State} (h : P s) : P (fillMove s) := by
  unfold Machine.fillMove
  split
  · exact K.fillResume (activeJob_some ‹_›).1 h
  · split
    · exact h
    · exact K.fillCommand _ (K.io _ .fill _ h)

theorem FillKept.fillTurns (K : FillKept P) : ∀ (n : Nat) {s : State}, P s → P (fillTurns n s)
  | 0, _, h => h
  | n + 1, s, h => by
    unfold Machine.fillTurns
    split
    · exact K.fillTurns n (K.fillMove (K.turns _ _ h))
    · exact K.turns _ _ h
    all_goals exact h

/-- What every update of FILLER keeps, an interleaving point keeps. -/
theorem FillKept.interleave (K : FillKept P) {s : State} (h : P s) : P (interleave s) :=
  K.fillTurns _ h

end Fill

/-- FILLER cannot reach the bit iterator (R69 (c)). -/
theorem interleave_iter (s : State) : (interleave s).iter = s.iter := by
  have K : FillKept fun t => t.iter = s.iter := by
    constructor <;> intros <;> simp_all [fillClaim, fillWrite, fillPublish]
  exact K.interleave rfl

/-! ## The bit iterator and the modulator -/

@[simp] theorem crossBoundary_bitsSent (s : State) : (crossBoundary s).iter.bitsSent = 0 := by
  unfold crossBoundary frameBoundary
  dsimp only
  split <;> simp

/-- After the lazy advance the current word is not exhausted. -/
theorem iterAdvance_bitsSent {il : State → State} (hil : ∀ s, (il s).iter = s.iter) (s : State) :
    (iterAdvance il s).iter.bitsSent ≠ 10 := by
  unfold iterAdvance
  split
  · split
    · simp [hil]
    · simp
  · assumption

section All
variable {P : State → Prop}

theorem Kept.iterAdvance (K : Kept P) {il : State → State} (hil : ∀ s, (il s).iter = s.iter)
    (hP : ∀ s, P s → P (il s)) {s : State} (h : P s) : P (iterAdvance il s) := by
  unfold Machine.iterAdvance
  split
  · split
    · exact hP _ (K.cross _ (by rw [hil]; assumption) (hP _ h))
    · exact K.nextWord _ ‹_› (by simp_all) h
  · exact h

theorem Kept.nextBit (K : Kept P) {il : State → State} (hil : ∀ s, (il s).iter = s.iter)
    (hP : ∀ s, P s → P (il s)) {s : State} (h : P s) : P (nextBit il s).2 :=
  K.takeBit _ (iterAdvance_bitsSent hil s) (K.iterAdvance hil hP h)

theorem Kept.modPull (K : Kept P) {s : State} (h : P s) : P (modPull s).2 := by
  unfold Machine.modPull
  split
  · exact h
  · exact K.nextBit interleave_iter (fun _ h => K.interleave h) h

theorem Kept.modStart_keeps (K : Kept P) {s : State} (h : P s) :
    P (Machine.modStart s) := by
  unfold Machine.modStart
  split
  · exact K.modStart _ _ (K.modPull h)
  · exact h

/-- After `modStart` the modulator is inside a bit. -/
theorem modStart_sent (s : State) : (modStart s).modu.samplesSent = 0 ∨
    (modStart s).modu.samplesSent < (modStart s).modu.samplesPerBit.getD 0 := by
  unfold modStart
  split
  · exact .inl rfl
  · rename_i h
    simp only [modBitDue, Bool.or_eq_true, decide_eq_true_eq, not_or, Nat.not_le] at h
    exact .inr h.2

theorem Kept.modBit (K : Kept P) {s : State} (h : P s) : P (modBit s).2 := by
  unfold Machine.modBit
  have h' := K.modTick _ (modStart_sent s) (K.modStart_keeps h)
  dsimp only
  split
  · exact K.firStep _ _ _ h'
  · exact h'

/-! ## The period processor -/

theorem Kept.iirStep (K : Kept P) {s : State} (x : Num) (h : P s) : P (iirStep x s).2 :=
  K.iirRun _ _ (K.iirGuard _ h)

theorem Kept.clipCheck (K : Kept P) {s : State} (i : Nat) (o : Num) (h : P s) :
    P (clipCheck i o s) := by
  unfold Machine.clipCheck
  split
  · exact K.event _ _ (by simp) (by simp) (K.clipLatch _ _ h)
  · exact h

theorem Kept.entryCommon (K : Kept P) {s : State} (h : P s) : P (entryCommon s) :=
  K.iirZero _ (K.firClear _ _ (K.firClear _ _ (K.clipLatch _ _ h)))

theorem Kept.entryMode (K : Kept P) {s : State} (hc : configFailure s = none)
    {t : State} (ht : t.par = s.par) (h : P t) : P (entryMode (modeKeyOf s.par) t) := by
  unfold Machine.entryMode
  simp only [modeKeyOf]
  unfold configFailure at hc
  split at hc <;> rename_i hm <;> simp only [hm]
  · exact K.peakReset _ h
  · exact K.oscRestart _ _ h
  · rw [ht]
    exact K.modRestart _ _ (samplesPerBit_pos_of_checks (firstFailure_none.1 hc))
      (by rw [ht]; exact samplesPerBitOf_le _ _ _) h
  · rw [ht]
    split
    · rename_i htel
      rw [if_pos htel] at hc
      refine K.modRestart _ _ (samplesPerBit_pos_of_checks fun x hx => ?_)
        (by rw [ht]; exact samplesPerBitOf_le _ _ _) h
      exact firstFailure_none.1 hc x (List.mem_append_right _ hx)
    · exact h

@[simp] theorem firClear_par (f : FirInst) (s : State) : (firClear f s).par = s.par := by
  simp [firClear]

@[simp] theorem modRestart_par (n : Nat) (s : State) : (modRestart n s).par = s.par := by
  simp [modRestart]

@[simp] theorem oscRestart_par (q : Num) (s : State) : (oscRestart q s).par = s.par := by
  simp [oscRestart]

@[simp] theorem entryMode_par (k : ModeKey) (s : State) : (entryMode k s).par = s.par := by
  unfold entryMode
  split <;> [skip; split; skip; skip] <;> simp

theorem Kept.enterMode (K : Kept P) {s : State} (hc : configFailure s = none) (h : P s) :
    P (enterMode s) := by
  unfold Machine.enterMode
  split
  · exact h
  · have := K.keyLatch _ (K.entryMode hc (entryCommon_par s) (K.entryCommon h))
    simpa [modeEntry] using this

theorem Kept.toneSample (K : Kept P) {s : State} (k : Nat) (u : Unit) (h : P s) :
    P (toneSample k u s).2 := by
  unfold Machine.toneSample
  dsimp only
  split <;> exact K.oscNext _ .sine h

theorem Kept.measureSample (K : Kept P) {s : State} (k : Nat) (x : Num) (h : P s) :
    P (measureSample k x s).2 := by
  unfold Machine.measureSample
  dsimp only
  split
  · exact K.peakRaise _ _ h
  · exact h

theorem Kept.runDuv (K : Kept P) {s : State} (ins : List Num) (h : P s) : P (runDuv ins s).2 := by
  have h1 : P (decimate ins s).2 := runList_keeps (fun _ _ _ h => K.firStep _ _ _ h) _ _ _ h
  have h2 : ∀ xs {t}, P t → P (highPass xs t).2 := by
    intro xs t ht
    unfold highPass
    split
    · exact runList_keeps (fun _ _ _ h => K.iirStep _ h) _ _ _ ht
    · exact ht
  have h3 : ∀ xs {t}, P t → P (inject xs t).2 := by
    intro xs t ht
    unfold inject
    split
    · exact runList_keeps (f := injectSample) (fun _ _ _ h => K.modBit h) _ _ _ ht
    · exact ht
  exact runList_keeps (f := interpSample) (fun _ x s h => K.clipCheck _ _ (K.firStep s .int x h)) _ _ _
    (h3 _ (h2 _ h1))

theorem Kept.runMode (K : Kept P) {s : State} (ins : List Num) (h : P s) : P (runMode ins s).2 := by
  unfold Machine.runMode
  split
  · exact runList_keeps (fun _ _ _ h => K.toneSample _ _ h) _ _ _ h
  · exact K.window _ (runList_keeps (fun _ _ _ h => K.measureSample _ _ h) _ _ _ h)
  · exact runList_keeps (f := hsSample) (fun _ _ _ h => K.clipCheck _ _ (K.modBit h)) _ _ _ h
  · exact K.runDuv _ h

theorem Kept.periodRun (K : Kept P) {s : State} {p : Port} (ins : List Num) {dt : Duration}
    (hdt : 0 ≤ dt) (hc : configFailure s = none) (h : P s) : P (periodRun p ins dt s) :=
  K.timing _ _ hdt (K.pushAll (K.runMode _ (K.enterMode hc h)))

/-! ## Every operation, every step -/

@[simp] theorem tapArray_length (len : Nat) (tap : Int → Num) : (tapArray len tap).length = len := by
  simp [tapArray]

/-- A generator fills every cell (R136). -/
@[simp] theorem tapCoefs_length (f : NumFormat) (norm : Norm) (t : List Num) :
    (tapCoefs f norm t).length = t.length := by
  unfold tapCoefs tapDraw
  split
  · split
    · rename_i h
      exact h.1
    · simp [tapImpulse]
  · simp [tapQuotients]

theorem Kept.genStore (K : Kept P) {s : State} {p : Port} {f : FirInst} {norm : Norm} {t : List Num}
    (ht : t.length = s.cfg.firLen f) (h : P s) : P (genStore p f norm t s) := by
  unfold Machine.genStore
  split
  · exact K.refuse (by simp) (by simp) h
  · exact K.firFill _ _ _ (by simpa using ht) h

/-- What every update keeps, every operation keeps, if a mismatched period does. -/
theorem Kept.exec (K : Kept P) {s t : State} {i : Instr}
    (hm : ∀ n, i = .procPeriod n → n.toNat ≠ s.par.periodLen →
      P (raisePeriodMismatch s.port n.toNat (s.clearDin s.port)))
    (h : P s) (he : exec i s = .next t) : P t := by
  have refuseCfg : ∀ {p n} {s : State}, P s → P (Machine.refuse p (.cfgInvalid n) s) :=
    fun h => K.refuse (by simp) (by simp) h
  cases i <;> injection he with he <;> subst he
  case nop => exact K.nop _ h
  case oscInit =>
    refine K.accept h fun _ h => ?_
    try dsimp only
    split
    · exact refuseCfg h
    · exact K.oscRestart _ _ h
  case oscNext sel => exact K.accept h fun _ h => K.push (K.oscNext _ sel h)
  case firReset => exact K.accept h fun _ h => K.firClear _ _ h
  case firStep =>
    refine K.accept h fun _ h => ?_
    try dsimp only
    split
    · exact K.push (K.firStep _ _ _ h)
    · exact refuseCfg h
  case firLoadc => exact K.accept h fun _ h => K.firLoad _ _ _ _ h
  case firGenrc =>
    refine K.accept h fun _ h => ?_
    try dsimp only
    split
    · exact K.genStore (by simp [rcArray]) h
    · exact refuseCfg h
  case firGenrrc =>
    refine K.accept h fun _ h => ?_
    try dsimp only
    split
    · exact K.genStore (by simp [rrcArray]) h
    · exact refuseCfg h
  case iirReset => exact K.accept h fun _ h => K.iirZero _ h
  case iirStep =>
    refine K.accept h fun _ h => ?_
    try dsimp only
    split
    · exact refuseCfg h
    · exact K.push (K.iirStep _ h)
  case iirLoadc =>
    refine K.accept h fun _ h => ?_
    try dsimp only
    split
    · exact refuseCfg h
    · exact K.iirLoad _ _ _ _ h
  case iirSetn n =>
    refine K.accept h fun hl h => K.iirSetn _ _ ?_ ?_ h
    · have := (legal_iff.1 hl).1
      simp only [Instr.wellFormed, Bool.and_eq_true, decide_eq_true_eq] at this
      omega
    · have := (legal_iff.1 hl).1
      simp only [Instr.wellFormed, Bool.and_eq_true, decide_eq_true_eq] at this
      simpa using this.2
  case rsClear => exact K.rsClear _ h
  case rsUpdate => exact K.rsUpdateOn _ _ h
  case rsRead => exact K.rsRead _ _ h
  case encReset => exact K.encReset _ h
  case encByte => exact K.encByte _ _ h
  case encSync => exact K.encSync _ h
  case frameEncode => exact K.frameEncode _ h
  case frameFill => exact K.frameFill _ h
  case frameRdy => exact K.frameRdy _ h
  case frameReq => exact K.accept h fun _ h => K.latch _ h
  case frameNextbit => exact K.accept h fun _ h => K.push (K.nextBit (fun _ => rfl) (fun _ h => h) h)
  case framePoll => exact K.framePoll _ h
  case modInit =>
    refine K.accept h fun _ h => ?_
    try dsimp only
    split
    · exact refuseCfg h
    · rename_i hr
      refine K.modRestart _ _ ?_ (samplesPerBitOf_le _ _ _) h
      simp only [modInitRejects, Bool.or_eq_true, decide_eq_true_eq, not_or] at hr
      omega
  case modBit =>
    refine K.accept h fun _ h => ?_
    try dsimp only
    split
    · exact refuseCfg h
    · exact K.push (K.modBit h)
  case procPeriod n =>
    refine K.accept h fun hl h => ?_
    split
    · exact hm n rfl (by rename_i hn; simpa using hn)
    · split
      · exact refuseCfg h
      · exact K.periodRun _ (period_duration_nonneg hl) ‹_› h
  case parGet =>
    refine K.accept h fun _ h => ?_
    try dsimp only
    split
    · exact refuseCfg h
    · exact K.push h
  case parSet =>
    refine K.accept h fun _ h => ?_
    try dsimp only
    split
    · exact refuseCfg h
    · exact K.parSet _ _ _ _ ‹_› h
  case faultGet => exact K.faultGet _ h

theorem Kept.portMove (K : Kept P) (hm : ∀ s n, P s → P ((s.emit (.periodMismatch n)).halt))
    {s t : State} {p : Port} (h : P s) (he : portMove p s = .next t) : P t := by
  unfold Machine.portMove at he
  split at he
  · injection he with he
    exact he ▸ h
  · have h' : ∀ x rest, P (s.deliver p x rest) := fun x rest => K.port _ _ (K.io _ _ _ h)
    unfold runWord at he
    split at he
    · injection he with he
      exact he ▸ K.refuse (by simp) (by simp) (h' _ _)
    · exact K.exec (fun n _ _ => K.clearDin (hm _ _ (K.clearDin (h' _ _)))) (h' _ _) he

theorem Kept.fillPortMove (K : Kept P) (hm : ∀ s n, P s → P ((s.emit (.periodMismatch n)).halt))
    {s t : State} (h : P s) (he : fillPortMove s = .next t) : P t := by
  unfold Machine.fillPortMove at he
  split at he
  · injection he with he
    exact he ▸ K.fillResume (activeJob_some ‹_›).1 h
  · exact K.portMove hm h he

/-- What every update, the fatal event and reset keep, every step keeps. -/
theorem step_keeps (K : Kept P) (hm : ∀ s n, P s → P ((s.emit (.periodMismatch n)).halt)) {s t : State}
    (hr : ∀ rest, s.turns = .reset :: rest → P (coldReset (s.setTurns rest)))
    (h : P s) (he : step s = .next t) : P t := by
  unfold step nextMove at he
  split at he
  · exact K.portMove hm (K.turns _ _ h) he
  · exact K.fillPortMove hm (K.turns _ _ h) he
  · injection he with he
    exact he ▸ hr _ ‹_›
  · split at he
    · exact K.fillPortMove hm h he
    · exact K.portMove hm h he

end All

end Sys2Proof.Machine
end

