-- ==== Sys2Proof/Laws/Meaning.lean ====
section
/-! SUPPORT. What the shared procedures do, one lemma each, so that a proof about an operation cites it
instead of unfolding: legality of an issued command, the filters, the parity array, the encoder over a
list, the bit iterator, the moves of FILLER inside a CMD operation. -/

namespace Sys2Proof.Machine

/-! ## Arrival -/

/-- A command that was issued with its row's frame, on a port its row allows, with legal operands, is
legal (R104). -/
theorem Issued.legal {p : Port} {i : Instr} {frame : List Item} {s : State} (h : Issued p frame s)
    (hw : i.wellFormed s.cfg = true) (hp : portAllows p i = true) (hf : fillAllows s i = true)
    (hk : kindsMatch s.cfg.num (rowDin s.cfg i) frame = true) : legal p i s = true :=
  legal_iff.2 ⟨hw, hp, .inl h.running, hf, by rw [h.din]; exact hk⟩

/-- With an empty frame, popping it changes nothing. -/
theorem clearDin_of_empty {s : State} {p : Port} (h : (s.io p).din = []) : s.clearDin p = s := by
  unfold State.clearDin
  rw [← h]
  exact State.setIo_io s p

/-- A list of bytes is a frame of that many byte items. -/
theorem kindsMatch_bytes (f : NumFormat) : ∀ bs : List Byte,
    kindsMatch f (List.replicate bs.length .byte) (bs.map .byte) = true
  | [] => rfl
  | _ :: bs => by simpa [List.replicate_succ, kindsMatch, Item.hasKind] using kindsMatch_bytes f bs

@[simp] theorem byteVal_map (bs : List Byte) : (bs.map Item.byte).map Item.byteVal = bs := by
  induction bs <;> simp_all [Item.byteVal]

/-- A list of numbers of the number type and a duration are the frame of a period. -/
theorem kindsMatch_period {f : NumFormat} {dt : Duration} (hdt : 0 ≤ dt) : ∀ {xs : List Num},
    (∀ x ∈ xs, isNum f x = true) →
    kindsMatch f (List.replicate xs.length .num ++ [.duration]) (xs.map .num ++ [.duration dt]) = true
  | [], _ => by simp [kindsMatch, Item.hasKind, hdt]
  | x :: xs, h => by
    have := kindsMatch_period hdt (xs := xs) fun y hy => h y (List.mem_cons_of_mem _ hy)
    simp [List.replicate_succ, kindsMatch, Item.hasKind, h x, this]

/-! ## FIR -/

/-- The dot product, index by index (R133). -/
theorem numDot_eq_foldl (f : NumFormat) : ∀ (c h : List Num) (acc : Num), c.length = h.length →
    numDot f acc c h =
      (List.range c.length).foldl (fun acc i => rnd f (acc + rnd f (c.getD i 0 * h.getD i 0))) acc
  | [], [], _, _ => rfl
  | [], _ :: _, _, hl => by simp at hl
  | _ :: _, [], _, hl => by simp at hl
  | _ :: cs, _ :: hs, _, hl => by
    rw [numDot, numDot_eq_foldl f cs hs _ (by simpa using hl), List.length_cons, List.range_succ_eq_map,
      List.foldl_cons, List.foldl_map]
    simp [numAdd, numMul]

/-- `fir_step` returns the dot product over the advanced history and changes that history only. -/
theorem firStep_eq (f : FirInst) (x : Num) (s : State) :
    firStep f x s =
      (numDot s.cfg.num 0 (s.fir f).values (firShift (s.fir f).hist x),
        s.setFir f { s.fir f with hist := firShift (s.fir f).hist x }) := rfl

/-- Advancing a history keeps its length. -/
theorem firShift_length {h : List Num} (x : Num) (hne : h ≠ []) : (firShift h x).length = h.length := by
  have := List.length_pos_iff.2 hne
  simp [firShift]
  omega

/-! ## IIR -/

/-- The cascade answers one set of registers for each section. -/
theorem iirCascade_length (f : NumFormat) : ∀ (l : List (IirCoefs × IirSection)) (v m : Num),
    (iirCascade f l v m).1.length = l.length
  | [], _, _ => rfl
  | (c, r) :: rest, v, m => by
    simp only [iirCascade, List.length_cons]
    rw [iirCascade_length f rest]

/-! ## Reed-Solomon -/

/-- `rs_update` keeps the size of the parity array. -/
theorem rsUpdate_length {c : Config} {parity : List Byte} (d : Byte) (h : 1 ≤ parity.length)
    (hg : parity.length ≤ c.rsGen.length) : (rsUpdate c parity d).length = parity.length := by
  simp [rsUpdate]
  omega

/-- Multiplication by zero. -/
@[simp] theorem gmulLoop_zero_left (field : BitVec 9) (b p : Byte) :
    ∀ k, gmulLoop field b k 0 p = p
  | 0 => rfl
  | k + 1 => by
    have hd : gdouble field 0 = 0 := by simp [gdouble]
    rw [gmulLoop, hd]
    simpa using gmulLoop_zero_left field b p k

@[simp] theorem gmul_zero_left (field : BitVec 9) (b : Byte) : gmul field 0 b = 0 :=
  gmulLoop_zero_left field b 0 8

/-- The parity of a payload has `PARITY_LEN` bytes. -/
theorem rsParity_length {c : Config} (payload : List Byte) (h : 1 ≤ c.parityLen)
    (hg : c.parityLen ≤ c.rsGen.length) : (rsParity c payload).length = c.parityLen := by
  suffices ∀ (ds ps : List Byte), ps.length = c.parityLen → (ds.foldl (rsUpdate c) ps).length = c.parityLen
    from this _ _ (by simp)
  intro ds
  induction ds with
  | nil => exact fun _ hp => hp
  | cons d ds ih => exact fun ps hp => ih _ (by rw [rsUpdate_length d (by omega) (by omega), hp])

/-! ## 8b10b over a list -/

/-- Encoding byte after byte is encoding the whole list (R201). -/
theorem encBytes_append : ∀ (rd : Disparity) (a b : List Byte),
    encBytes rd (a ++ b) =
      ((encBytes rd a).1 ++ (encBytes (encBytes rd a).2 b).1, (encBytes (encBytes rd a).2 b).2)
  | _, [], _ => rfl
  | rd, v :: a, b => by
    simp only [List.cons_append, encBytes]
    rw [encBytes_append]

/-- One word for each byte. -/
theorem encBytes_length : ∀ (rd : Disparity) (a : List Byte), (encBytes rd a).1.length = a.length
  | _, [] => rfl
  | rd, v :: a => by
    simp only [encBytes, List.length_cons]
    rw [encBytes_length]

/-- `encode_frame` in one piece: the words of payload and parity, then the sync word (R201). -/
theorem encodeFrame_eq (c : Config) (rd : Disparity) (payload : List Byte) :
    encodeFrame c rd payload =
      ((encBytes rd (payload ++ rsParity c payload)).1 ++
          [(encSync (encBytes rd (payload ++ rsParity c payload)).2).1],
        { parity := rsParity c payload
          rd := (encSync (encBytes rd (payload ++ rsParity c payload)).2).2 }) := by
  simp [encodeFrame, encBytes_append]

/-- A frame has `FRAME_LEN` words (R200). -/
theorem encodeFrame_length {c : Config} {rd : Disparity} {payload : List Byte}
    (hp : payload.length = c.dataLen) (h : 1 ≤ c.parityLen) (hg : c.parityLen ≤ c.rsGen.length) :
    (encodeFrame c rd payload).1.length = c.frameLen := by
  simp [encodeFrame_eq, encBytes_length, rsParity_length payload h hg, hp, Config.frameLen]

/-- Writing a frame of the right size into a slot stores its words. -/
theorem slotWords_eq {n : Nat} {ws : List Word10} (h : ws.length = n) : slotWords n ws = ws := by
  subst h
  apply List.ext_getElem (by simp [slotWords])
  intro i h1 h2
  simp [slotWords, h2]

/-! ## The bit iterator -/

/-- Inside a word `next_bit` changes `BITS_SENT` only (R207). -/
theorem nextBit_inside {il : State → State} {s : State} (h : s.iter.bitsSent ≠ 10) :
    nextBit il s =
      ((iterWord s).getLsbD (9 - s.iter.bitsSent),
        s.setIter { s.iter with bitsSent := s.iter.bitsSent + 1 }) := by
  simp [nextBit, iterAdvance, h]

/-- At the end of a word inside a frame `next_bit` is the first bit of the next word (R207). -/
theorem nextBit_nextWord {il : State → State} {s : State} (h : s.iter.bitsSent = 10)
    (hb : atBoundary s = false) :
    nextBit il s =
      nextBit il (s.setIter { s.iter with bitsSent := 0, wordsSent := s.iter.wordsSent + 1 }) := by
  simp [nextBit, iterAdvance, h, hb]

/-! ## FILLER inside a CMD operation -/

/-- The moves of FILLER at an interleaving point touch none of these (R69, R295). -/
theorem interleave_frame (s : State) :
    (interleave s).cfg = s.cfg ∧ (interleave s).port = s.port ∧ (interleave s).osc = s.osc ∧
    (interleave s).firDec = s.firDec ∧ (interleave s).firInt = s.firInt ∧
    (interleave s).firBit = s.firBit ∧ (interleave s).iir = s.iir ∧ (interleave s).iter = s.iter ∧
    (interleave s).modu = s.modu ∧ (interleave s).proc = s.proc ∧ (interleave s).par = s.par ∧
    (interleave s).hand.active = s.hand.active ∧ (interleave s).flt.halted = s.flt.halted := by
  let P : State → Prop := fun t =>
    t.cfg = s.cfg ∧ t.port = s.port ∧ t.osc = s.osc ∧ t.firDec = s.firDec ∧ t.firInt = s.firInt ∧
    t.firBit = s.firBit ∧ t.iir = s.iir ∧ t.iter = s.iter ∧ t.modu = s.modu ∧ t.proc = s.proc ∧
    t.par = s.par ∧ t.hand.active = s.hand.active ∧ t.flt.halted = s.flt.halted
  have K : FillKept P :=
    { io := fun t p x h => by simpa [P] using h
      turns := fun t x h => by simpa [P] using h
      event := fun t e _ _ h => by simpa [P] using h
      clearParity := fun t h => by simpa [P] using h
      rsUpdate := fun t d h => by simpa [P] using h
      setRd := fun t rd h => by simpa [P] using h
      encode := fun t payload h => by simpa [P] using h
      claim := fun t _ h => by simpa [P, fillClaim] using h
      write := fun t p slot _ h => by simpa [P, fillWrite] using h
      publish := fun t slot _ h => by simpa [P, fillPublish] using h }
  exact K.interleave (s := s) ⟨rfl, rfl, rfl, rfl, rfl, rfl, rfl, rfl, rfl, rfl, rfl, rfl, rfl⟩

/-- A command on the FILL port leaves the CMD port's queues alone. -/
theorem fillExec_cmd (i : Instr) (s : State) : (fillExec i s).cmd = s.cmd := by
  have hg : ∀ (i : Instr) (s : State) (body : State → State), (∀ s, (body s).cmd = s.cmd) →
      (guarded .fill i s body).cmd = s.cmd := by
    intro i s body hb
    unfold guarded
    split
    · exact hb s
    · rfl
  have ha : ∀ (i : Instr) (s : State) (body : List Item → State → State),
      (∀ l s, (body l s).cmd = s.cmd) → (accept .fill i s body).cmd = s.cmd :=
    fun i s body hb => hg i s _ fun s => hb _ _
  have ht : ∀ s, (takeFillTurn s).cmd = s.cmd := by
    intro s
    unfold takeFillTurn
    split <;> rfl
  cases i <;> first
    | exact ha _ _ _ fun _ _ => rfl
    | rfl
    | skip
  case frameFill =>
    refine hg _ _ _ fun s => ?_
    unfold fillContinue fillFinish
    split
    · rfl
    · split
      · exact ht _
      · change (takeFillTurn _).cmd = _
        rw [ht]
        exact ht _

/-- A move of FILLER leaves the CMD port's queues alone. -/
theorem fillMove_cmd (s : State) : (fillMove s).cmd = s.cmd := by
  have ht : ∀ s, (takeFillTurn s).cmd = s.cmd := by
    intro s
    unfold takeFillTurn
    split <;> rfl
  unfold fillMove
  split
  · unfold fillResume
    split
    · unfold fillFinish
      split
      · rfl
      · exact ht _
    · rfl
  · split
    · rfl
    · unfold fillCommand
      split
      · rfl
      · exact fillExec_cmd _ _

/-- The moves of FILLER at an interleaving point leave the CMD port's queues alone. -/
theorem interleave_cmd (s : State) : (interleave s).cmd = s.cmd := by
  suffices ∀ (n : Nat) (s : State), (fillTurns n s).cmd = s.cmd from this _ s
  intro n
  induction n with
  | zero => exact fun _ => rfl
  | succ n ih =>
    intro s
    unfold fillTurns
    split
    · rw [ih, fillMove_cmd]
      rfl
    · rfl
    · rfl
    · rfl

/-- On the FILL port, `exec` is `fillExec`: the operations that R96 does not allow there are refused by
both. -/
theorem exec_fill (i : Instr) {s : State} (hp : s.port = .fill) : exec i s = .next (fillExec i s) := by
  have refused : ∀ body, portAllows .fill i = false →
      accept .fill i s body = refuse .fill (.cmdIllegal (encode i)) s := by
    intro body h
    unfold accept guarded
    rw [if_neg]
    simp [Machine.legal, h]
  have h : ∀ {t u : State}, t = u → Host.Outcome.next t = (.next u : Host.Outcome State Fault Refusal) :=
    fun h => congrArg _ h
  cases i <;> refine h ?_ <;> rw [hp] <;> first
    | rfl
    | exact refused _ rfl

/-- Illegality and refusal do not read which port moved last. -/
theorem guarded_setPort {i : Instr} {p q : Port} {s : State} {body : State → State}
    (hb : ∀ s, body (s.setPort p) = (body s).setPort p) :
    guarded q i (s.setPort p) body = (guarded q i s body).setPort p := by
  have hl : Machine.legal q i (s.setPort p) = Machine.legal q i s := by
    unfold Machine.legal
    cases q <;> cases i <;> rfl
  unfold guarded
  rw [hl]
  split
  · exact hb s
  · cases q <;> rfl

/-- As `guarded_setPort`, the frame popped. -/
theorem accept_setPort {i : Instr} {p : Port} {s : State} {body : List Item → State → State}
    (hb : ∀ l s, body l (s.setPort p) = (body l s).setPort p) :
    accept .fill i (s.setPort p) body = (accept .fill i s body).setPort p :=
  guarded_setPort fun s => hb (s.io .fill).din (s.clearDin .fill)

/-- A command on the FILL port does not read which port moved last. -/
theorem fillExec_setPort (i : Instr) (s : State) (p : Port) :
    fillExec i (s.setPort p) = (fillExec i s).setPort p := by
  have turn : ∀ s : State, takeFillTurn (s.setPort p) = (takeFillTurn s).setPort p := by
    intro s
    unfold takeFillTurn
    simp only [State.setPort_turns]
    split <;> rfl
  have finish : ∀ sl (s : State), fillFinish sl (s.setPort p) = (fillFinish sl s).setPort p := by
    intro sl s
    unfold fillFinish
    rw [show fillYields (s.setPort p) = fillYields s from rfl, turn]
    split <;> rfl
  cases i <;> simp only [fillExec, nopOn, rsClearOn, rsUpdateOn, rsReadOn, encResetOn, encByteOn, encSyncOn,
    frameEncodeOn, frameFillOn, frameRdyOn, framePollOn, faultGetOn] <;> first
    | exact accept_setPort fun _ _ => rfl
    | rfl
    | skip
  case frameFill =>
    refine guarded_setPort fun s => ?_
    unfold fillContinue
    rw [show fillYields (fillClaim (s.setPort p)) = fillYields (fillClaim s) from rfl]
    split
    · rfl
    · rw [show fillClaim (s.setPort p) = (fillClaim s).setPort p from rfl, turn,
        show ∀ x sl, fillWrite .fill sl (State.setPort x p) = (fillWrite .fill sl x).setPort p from
          fun _ _ => rfl, finish]
      rfl

end Sys2Proof.Machine
end

