-- ==== Sys2Proof/Laws/Numbers.lean ====
section
/-! SUPPORT. What `sin`, `cos`, `sqrt` and `π` of `Numbers.lean` are known to be (log entry 3): the facts
the generators of R137 and R139 rest on; what a legal configuration says of the oscillator tables. -/

namespace Sys2Proof.Machine

theorem numAbs_eq_abs (a : Num) : numAbs a = |a| := by
  unfold numAbs
  split
  · exact (abs_of_neg ‹_›).symm
  · exact (abs_of_nonneg (not_lt.1 ‹_›)).symm

theorem abs_clampTo_le {b v : Num} (hb : 0 ≤ b) : |clampTo b v| ≤ b := by
  unfold clampTo
  rw [abs_le]
  split <;> [skip; split] <;> constructor <;> linarith

theorem clampTo_zero (v : Num) : clampTo 0 v = 0 := by
  unfold clampTo
  split <;> [simp; split] <;> simp_all
  linarith

theorem numPi_bounds (f : NumFormat) : 3 ≤ numPi f ∧ numPi f ≤ 4 := by
  unfold numPi
  split <;> [assumption; norm_num]

theorem numPi_pos (f : NumFormat) : 0 < numPi f := by linarith [(numPi_bounds f).1]

theorem numSin_neg (x : Num) : numSin .exact (-x) = -numSin .exact x := by
  simp only [numSin]
  rcases lt_trichotomy x 0 with h | rfl | h
  · simp [h, not_lt.2 (neg_pos.2 h).le]
  · simp [clampTo_zero]
  · simp [h, not_lt.2 h.le]

theorem abs_numSin_le (x : Num) : |numSin .exact x| ≤ min 1 |x| := by
  simp only [numSin]
  split
  · rename_i h
    rw [abs_neg, abs_of_neg h]
    exact abs_clampTo_le (le_min zero_le_one (neg_pos.2 h).le)
  · rename_i h
    rw [abs_of_nonneg (not_lt.1 h)]
    exact abs_clampTo_le (le_min zero_le_one (not_lt.1 h))

theorem numCos_zero : numCos .exact 0 = 1 := by simp [numCos]

theorem numCos_neg (x : Num) : numCos .exact (-x) = numCos .exact x := by
  have h : ∀ y : Num, 2 * -y / numPi .exact * (2 * -y / numPi .exact) =
      2 * y / numPi .exact * (2 * y / numPi .exact) := fun y => by ring
  simp only [numCos, numAbs_eq_abs, neg_eq_zero, abs_neg, h]

theorem abs_numCos_le (x : Num) :
    |numCos .exact x| ≤ min 1 |1 - (2 * x / numPi .exact) ^ 2| := by
  simp only [numCos]
  split
  · subst x
    simp
  · rw [pow_two, ← numAbs_eq_abs (1 - _)]
    exact abs_clampTo_le (le_min zero_le_one (by rw [numAbs_eq_abs]; exact abs_nonneg _))

theorem numSqrt_zero (f : NumFormat) : numSqrt f 0 = 0 := by simp [numSqrt]

theorem numSqrt_pos (f : NumFormat) {x : Num} (h : 0 < x) : 0 < numSqrt f x := by
  unfold numSqrt
  rw [if_neg h.ne']
  split
  · rename_i hr
    refine lt_of_le_of_ne (Rat.sqrt_nonneg _) fun h0 => ?_
    rw [← h0] at hr
    exact h.ne' (by simpa using hr.2.symm)
  · split <;> [assumption; exact one_pos]

/-- A rational root is the root. -/
theorem numSqrt_sq {q : Num} (h : 0 ≤ q) : numSqrt .exact (q ^ 2) = q := by
  have hr : Rat.sqrt (q ^ 2) = q := by rw [pow_two, Rat.sqrt_eq, abs_of_nonneg h]
  unfold numSqrt
  split
  · rename_i h0
    exact (pow_eq_zero_iff two_ne_zero).1 h0 |>.symm
  · rw [hr, if_pos ⟨rfl, (pow_two q).symm⟩]

theorem rnd_zero (f : NumFormat) : rnd f 0 = f.zero := by cases f <;> rfl

/-- What a legal configuration says of the oscillator tables (R121). -/
theorem tables_of_wf {c : Config} (h : c.wf = true) :
    c.sinTab.length = c.tableLen ∧ c.cosTab.length = c.tableLen ∧
    c.sinTab[0]? = some 0 ∧ c.cosTab[0]? = some 1 ∧
    (∀ x ∈ c.sinTab, |x| ≤ 1) ∧ (∀ x ∈ c.cosTab, |x| ≤ 1) ∧
    (c.tableLen % 4 = 0 →
      c.sinTab[c.tableLen / 4]? = some 1 ∧ c.sinTab[c.tableLen / 2]? = some (rnd c.num 0) ∧
      ∀ i, i < c.tableLen → c.cosTab[i]? = c.sinTab[(i + c.tableLen / 4) % c.tableLen]?) := by
  have ht : c.tablesOk = true := by
    simp only [Config.wf, Bool.and_eq_true] at h
    tauto
  simp only [Config.tablesOk, Bool.and_eq_true, Bool.or_eq_true, decide_eq_true_eq, List.all_eq_true,
    List.mem_range] at ht
  obtain ⟨⟨⟨⟨⟨⟨h1, h2⟩, h3⟩, h4⟩, h5⟩, h6⟩, h7⟩ := ht
  refine ⟨h1, h2, h3, h4, fun x hx => abs_le.2 (h5 x hx), fun x hx => abs_le.2 (h6 x hx), fun h => ?_⟩
  rcases h7 with h7 | ⟨⟨h7, h8⟩, h9⟩
  · exact absurd h h7
  · exact ⟨h7, by rw [rnd_zero]; exact h8, h9⟩

end Sys2Proof.Machine
end

