-- ==== Sys2Proof/Laws/PerInstr.lean ====
section
/-! SUPPORT. A fact about every instruction, one lemma per constructor: its word carries in `op` the
number of its row of spec R96. -/

namespace Sys2Proof.Laws.OpcodeField

/-- The `op` column of R96. -/
def tableOp : Instr → BitVec 8
  | .nop => 0x00
  | .oscInit => 0x08
  | .oscNext _ => 0x09
  | .firReset _ => 0x10
  | .firStep _ => 0x11
  | .firLoadc _ _ => 0x12
  | .firGenrc _ _ => 0x13
  | .firGenrrc _ _ => 0x14
  | .iirReset => 0x20
  | .iirStep => 0x21
  | .iirLoadc _ _ => 0x22
  | .iirSetn _ => 0x23
  | .rsClear => 0x30
  | .rsUpdate _ => 0x31
  | .rsRead _ => 0x32
  | .encReset => 0x40
  | .encByte _ => 0x41
  | .encSync => 0x42
  | .frameEncode => 0x50
  | .frameFill => 0x51
  | .frameRdy => 0x52
  | .frameReq => 0x53
  | .frameNextbit => 0x54
  | .framePoll => 0x55
  | .modInit => 0x60
  | .modBit => 0x61
  | .procPeriod _ => 0x70
  | .parGet _ => 0x80
  | .parSet _ => 0x81
  | .faultGet => 0x82

/-- The word of an instruction carries its row's opcode. -/
def Statement (i : Instr) : Prop := opOf (encode i) = tableOp i

theorem nop : Statement .nop := by simp [Statement, encode, tableOp]
theorem oscInit : Statement .oscInit := by simp [Statement, encode, tableOp]
theorem oscNext (sel : TableSel) : Statement (.oscNext sel) := by simp [Statement, encode, tableOp]
theorem firReset (f : FirInst) : Statement (.firReset f) := by simp [Statement, encode, tableOp]
theorem firStep (f : FirInst) : Statement (.firStep f) := by simp [Statement, encode, tableOp]
theorem firLoadc (f : FirInst) (index : BitVec 20) : Statement (.firLoadc f index) := by simp [Statement, encode, tableOp]
theorem firGenrc (f : FirInst) (norm : Norm) : Statement (.firGenrc f norm) := by simp [Statement, encode, tableOp]
theorem firGenrrc (f : FirInst) (norm : Norm) : Statement (.firGenrrc f norm) := by simp [Statement, encode, tableOp]
theorem iirReset : Statement .iirReset := by simp [Statement, encode, tableOp]
theorem iirStep : Statement .iirStep := by simp [Statement, encode, tableOp]
theorem iirLoadc (sec : BitVec 4) (cid : IirCoef) : Statement (.iirLoadc sec cid) := by simp [Statement, encode, tableOp]
theorem iirSetn (n : BitVec 20) : Statement (.iirSetn n) := by simp [Statement, encode, tableOp]
theorem rsClear : Statement .rsClear := by simp [Statement, encode, tableOp]
theorem rsUpdate (d : Byte) : Statement (.rsUpdate d) := by simp [Statement, encode, tableOp]
theorem rsRead (index : BitVec 5) : Statement (.rsRead index) := by simp [Statement, encode, tableOp]
theorem encReset : Statement .encReset := by simp [Statement, encode, tableOp]
theorem encByte (d : Byte) : Statement (.encByte d) := by simp [Statement, encode, tableOp]
theorem encSync : Statement .encSync := by simp [Statement, encode, tableOp]
theorem frameEncode : Statement .frameEncode := by simp [Statement, encode, tableOp]
theorem frameFill : Statement .frameFill := by simp [Statement, encode, tableOp]
theorem frameRdy : Statement .frameRdy := by simp [Statement, encode, tableOp]
theorem frameReq : Statement .frameReq := by simp [Statement, encode, tableOp]
theorem frameNextbit : Statement .frameNextbit := by simp [Statement, encode, tableOp]
theorem framePoll : Statement .framePoll := by simp [Statement, encode, tableOp]
theorem modInit : Statement .modInit := by simp [Statement, encode, tableOp]
theorem modBit : Statement .modBit := by simp [Statement, encode, tableOp]
theorem procPeriod (frameCount : BitVec 20) : Statement (.procPeriod frameCount) := by simp [Statement, encode, tableOp]
theorem parGet (reg : ParReg) : Statement (.parGet reg) := by simp [Statement, encode, tableOp]
theorem parSet (reg : ParReg) : Statement (.parSet reg) := by simp [Statement, encode, tableOp]
theorem faultGet : Statement .faultGet := by simp [Statement, encode, tableOp]

end Sys2Proof.Laws.OpcodeField
end

