-- ==== Sys2Proof/Tests/Slice0.lean ====
section
/-! SUPPORT. Tests of single steps against the spec's worked examples and vectors (V9 to V22, R107,
R251), the decoding of a word of every operation, the ill-formed operands, and for every statement with
hypotheses a concrete state and operands that meet them. Expected values are the spec's. -/

namespace Sys2Proof.Machine.Test

set_option Elab.async false

open Sys2Proof Sys2Proof.Machine

/-! ## Small machines -/

/-- Small filters and windows, frames of four payload bytes, an eight-entry table. -/
def tiny : Config :=
  { Config.standard with
    lDec := 2, lInt := 2, lBit := 4, coefDec := [1 / 2, 1 / 2], coefInt := [1 / 2, 1 / 2]
    iirMaxSections := 2, tableLen := 8
    sinTab := [0, 7 / 10, 1, 7 / 10, 0, -7 / 10, -1, -7 / 10]
    cosTab := [1, 7 / 10, 0, -7 / 10, -1, -7 / 10, 0, 7 / 10]
    dataLen := 4, measWindow := 2, ltWindow := 2 }

/-- The tiny machine after reset. -/
def base : State := State.resetOf tiny

/-- A command's frame in the `DIN` of a port, the command running on that port. -/
def on (p : Port) (frame : List Item) (s : State) : State :=
  (s.setIo p { s.io p with din := frame }).setPort p

/-- The state after an outcome that has one. -/
def after (o : Host.Outcome State Fault Refusal) (s : State) : State :=
  match o with
  | .next t => t
  | .fault _ => s
  | .refused _ => s

/-- The state after an operation with a frame on a port. -/
def run (p : Port) (i : Instr) (frame : List Item) (s : State) : State :=
  after (exec i (on p frame s)) s

/-- The numbers as items. -/
def nums (l : List Rat) : List Item := l.map .num

/-- The bytes as items. -/
def bytes (l : List Byte) : List Item := l.map .byte

theorem on_issued {p : Port} {frame : List Item} {s : State} (h : s.flt.halted = false) :
    Issued p frame (on p frame s) :=
  ⟨rfl, by cases p <;> rfl, by cases p <;> exact h⟩

/-! ## WellFormed: one ill-formed term for each check (R104) -/

theorem test_wf_loadc_index : (Instr.firLoadc .bit 4).wellFormed tiny = false := by decide
theorem test_wf_loadc_index_last : (Instr.firLoadc .bit 3).wellFormed tiny = true := by decide
theorem test_wf_section : (Instr.iirLoadc 2 .a0).wellFormed tiny = false := by decide
theorem test_wf_setn_zero : (Instr.iirSetn 0).wellFormed tiny = false := by decide
theorem test_wf_setn_above : (Instr.iirSetn 3).wellFormed tiny = false := by decide
theorem test_wf_read_index :
    (Instr.rsRead 16).wellFormed { tiny with parityLen := 16 } = false := by decide
theorem test_wf_read_only : (Instr.parSet .readyIndex).wellFormed tiny = false := by decide

/-- R121: zero and one everywhere is no sine and cosine of four entries, nor a cosine that is not the sine
a quarter ahead; three entries have no quarter points. -/
theorem test_wf_tables :
    { Config.standard with sinTab := [0, 0, 0, 0], cosTab := [1, 1, 1, 1] }.wf = false ∧
    { Config.standard with cosTab := [1, 0, 1, 0] }.wf = false ∧
    { Config.standard with sinTab := [0, 1, 1, -1], cosTab := [1, 1, -1, 0] }.wf = false ∧
    { Config.standard with
      tableLen := 3, sinTab := [0, 7 / 8, -7 / 8], cosTab := [1, -1 / 2, -1 / 2] }.wf = true := by
  decide +kernel

/-! ## Decoding: a word of every operation, its bits from the table of R96 -/

theorem test_decode_system :
    decode 0b00000000_0000_00000000000000000000 = .ok .nop ∧
    decode 0b10000000_0000_00000000000000001000 = .ok (.parGet .sampleRate) ∧
    decode 0b10000001_0000_00000000000000001001 = .ok (.parSet .bps) ∧
    decode 0b10000010_0000_00000000000000000000 = .ok .faultGet := by decide

theorem test_decode_oscillator :
    decode 0b00001000_0000_00000000000000000000 = .ok .oscInit ∧
    decode 0b00001001_0000_00000000000000000000 = .ok (.oscNext .sine) ∧
    decode 0b00001001_0000_00000000000000000001 = .ok (.oscNext .cosine) := by decide

theorem test_decode_fir :
    decode 0b00010000_0000_00000000000000000000 = .ok (.firReset .dec) ∧
    decode 0b00010001_0010_00000000000000000000 = .ok (.firStep .bit) ∧
    decode 0b00010010_0001_00000000000111011111 = .ok (.firLoadc .int 479) ∧
    decode 0b00010011_0001_00000000000000000001 = .ok (.firGenrc .int .l2) ∧
    decode 0b00010100_0010_00000000000000000000 = .ok (.firGenrrc .bit .sum) := by decide

theorem test_decode_iir :
    decode 0b00100000_0000_00000000000000000000 = .ok .iirReset ∧
    decode 0b00100001_0000_00000000000000000000 = .ok .iirStep ∧
    decode 0b00100010_0000_00000000000000100100 = .ok (.iirLoadc 2 .b1) ∧
    decode 0b00100011_0000_00000000000000000100 = .ok (.iirSetn 4) := by decide

theorem test_decode_encoder :
    decode 0b00110000_0000_00000000000000000000 = .ok .rsClear ∧
    decode 0b00110001_0000_00000000000001010001 = .ok (.rsUpdate 0x51) ∧
    decode 0b00110010_0000_00000000000000011111 = .ok (.rsRead 31) ∧
    decode 0b01000000_0000_00000000000000000000 = .ok .encReset ∧
    decode 0b01000001_0000_00000000000001010001 = .ok (.encByte 0x51) ∧
    decode 0b01000010_0000_00000000000000000000 = .ok .encSync := by decide

theorem test_decode_frame :
    decode 0b01010000_0000_00000000000000000000 = .ok .frameEncode ∧
    decode 0b01010001_0000_00000000000000000000 = .ok .frameFill ∧
    decode 0b01010010_0000_00000000000000000000 = .ok .frameRdy ∧
    decode 0b01010011_0000_00000000000000000000 = .ok .frameReq ∧
    decode 0b01010100_0000_00000000000000000000 = .ok .frameNextbit ∧
    decode 0b01010101_0000_00000000000000000000 = .ok .framePoll := by decide

theorem test_decode_modulator_period :
    decode 0b01100000_0000_00000000000000000000 = .ok .modInit ∧
    decode 0b01100001_0000_00000000000000000000 = .ok .modBit ∧
    decode 0b01110000_0000_00000000000111100000 = .ok (.procPeriod 480) := by decide

/-- V9 (f), V10 (f), V13 (g), V14 (j), V22: words that are no operation. -/
theorem test_decode_illegal :
    decode 0x01000000 = .error (.reservedOpcode 0x01) ∧
    decode 0xFF000000 = .error (.reservedOpcode 0xFF) ∧
    decode 0x00000001 = .error .immBitsSet ∧ decode 0x09000002 = .error .immBitsSet ∧
    decode 0x11300000 = .error .reservedInstance ∧ decode 0x20100000 = .error .unitNotZero ∧
    decode 0x2200000a = .error .reservedCoef ∧ decode 0x32000020 = .error .immBitsSet ∧
    decode 0x80000013 = .error .reservedParam ∧ decode 0x80000028 = .error .reservedParam := by
  decide

/-! ## One step of every operation -/

theorem test_nop : run .cmd .nop [] base = on .cmd [] base := by decide +kernel

/-- R261: 48000 after reset. -/
theorem test_parGet : (run .cmd (.parGet .sampleRate) [] base).cmd.dout = [.int 48000] := by
  decide +kernel
/-- V22: BPS is unwritten after reset. -/
theorem test_parGet_unwritten :
    (run .cmd (.parGet .bps) [] base).flt.evt = [.cfgInvalid 9] := by decide +kernel
/-- V22. -/
theorem test_parSet : (run .cmd (.parSet .bps) [.int 200] base).par.bps = some 200 := by
  decide +kernel
/-- V22: `DECIMATION_RATE` stays 4. -/
theorem test_parSet_illegal :
    let t := run .cmd (.parSet .decimationRate) [.int 0] base
    t.flt.evt = [.cfgInvalid 10] ∧ t.par.decimationRate = 4 := by decide +kernel
/-- R264: bits 5 and 6. -/
theorem test_faultGet :
    (run .fill .faultGet [] (base.setFlt { evt := [], fault := 0x60, halted := true })).fill.dout =
      [.int 0x60] := by decide +kernel

/-- V9 (a). -/
theorem test_oscInit :
    (run .cmd .oscInit [] (base.setPar { base.par with testToneFreq := some 6000 })).osc =
      { phase := 0, inc := 1 / 8 } := by decide +kernel
/-- V9 (b), the sixth call: phase 15/16 to 2/16, index 1. -/
theorem test_oscNext :
    let t := run .cmd (.oscNext .sine) [] (base.setOsc { phase := 15 / 16, inc := 3 / 16 })
    t.osc.phase = 1 / 8 ∧ t.cmd.dout = [.num (7 / 10)] := by decide +kernel

/-- The BIT filter of V10. -/
def v10 (hist : List Rat) : State :=
  base.setFirBit { coef := [some (1 / 8), some (1 / 4), some (1 / 2), some (1 / 8)], hist := hist }

theorem test_firReset : (run .cmd (.firReset .bit) [] (v10 [2, 3, 4, 5])).firBit.hist = [0, 0, 0, 0] := by
  decide +kernel
/-- V10 (a), the third call. -/
theorem test_firStep :
    let t := run .cmd (.firStep .bit) [.num 3] (v10 [0, 0, 1, 2])
    t.cmd.dout = [.num (13 / 8)] ∧ t.firBit.hist = [0, 1, 2, 3] := by decide +kernel
/-- V10 (d). -/
theorem test_firStep_unwritten :
    (run .cmd (.firStep .bit) [.num 1] base).flt.evt = [.cfgInvalid 0x102] := by decide +kernel
theorem test_firLoadc :
    (run .cmd (.firLoadc .dec 1) [.num 5] base).firDec.coef = [some (1 / 2), some 5] := by
  decide +kernel
/-- V11 (h). -/
theorem test_firGenrc_domain :
    (run .cmd (.firGenrc .dec .sum) (nums [48000, 0, 1 / 2]) base).flt.evt = [.cfgInvalid 0x132] := by
  decide +kernel
/-- V11 (h). -/
theorem test_firGenrrc_domain :
    (run .cmd (.firGenrrc .dec .l2) (nums [48000, 6000, 3 / 2]) base).flt.evt = [.cfgInvalid 0x132] := by
  decide +kernel

/-- A section of six coefficients. -/
def section6 (a0 a1 a2 b0 b1 b2 : Rat) : IirCoefs :=
  { a0 := some a0, a1 := some a1, a2 := some a2, b0 := some b0, b1 := some b1, b2 := some b2,
    a3 := 0, a4 := 0, b3 := 0, b4 := 0 }

/-- The cascade of V13 (a), its section with the registers given. -/
def v13 (c : IirCoefs) (r : IirSection) (m : Rat) : State :=
  base.setIir { nsec := some 1, coefs := [c, .reset], regs := [r, .zero], maxReg := m, ovfLogged := false }

/-- V13 (a), the second call. -/
theorem test_iirStep :
    let t := run .cmd .iirStep [.num 1] (v13 (section6 1 (-1 / 2) 0 1 (-1) 0) ⟨1, 0, 1, 0⟩ 1)
    t.cmd.dout = [.num (1 / 2)] ∧ t.iir.regs.head? = some ⟨1, 1, 1 / 2, 1⟩ := by decide +kernel
/-- V13 (c), the fourth call: the guard fires. -/
theorem test_iirStep_overflow :
    let t := run .cmd .iirStep [.num 1]
      (v13 (section6 1 (-10 ^ 11) 0 1 0 0) ⟨1, 1, 10 ^ 22, 10 ^ 11⟩ (10 ^ 22))
    t.cmd.dout = [.num 1] ∧ t.flt.evt = [.iirOvf] ∧ t.iir.maxReg = 1 ∧ t.iir.ovfLogged = true := by
  decide +kernel
theorem test_iirReset :
    (run .cmd .iirReset [] (v13 .reset ⟨1, 2, 3, 4⟩ 5)).iir.regs = [.zero, .zero] := by decide +kernel
theorem test_iirLoadc :
    (run .cmd (.iirLoadc 1 .b1) [.num (-2)] base).iir.coefs[1]? =
      some { IirCoefs.reset with b1 := some (-2) } := by decide +kernel
/-- V13 (g). -/
theorem test_iirLoadc_reserved :
    (run .cmd (.iirLoadc 0 .a3) [.num (1 / 2)] base).flt.evt = [.cfgInvalid 0x126] := by decide +kernel
theorem test_iirSetn : (run .cmd (.iirSetn 2) [] base).iir.nsec = some 2 := by decide +kernel

/-- V14 (a). -/
theorem test_rsUpdate :
    (run .fill (.rsUpdate 1) [] base).enc.parity =
      [0x5b, 0x7f, 0x56, 0x10, 0x1e, 0x0d, 0xeb, 0x61, 0xa5, 0x08, 0x2a, 0x36, 0x56, 0xab, 0x20, 0x71,
       0x20, 0xab, 0x56, 0x36, 0x2a, 0x08, 0xa5, 0x61, 0xeb, 0x0d, 0x1e, 0x10, 0x56, 0x7f, 0x5b, 0x01] := by
  decide +kernel
/-- V14 (d), the second update. -/
theorem test_rsUpdate_shift :
    ((run .fill (.rsUpdate 0) [] (run .fill (.rsUpdate 1) [] base)).enc.parity).take 8 =
      [0x60, 0x61, 0xee, 0xbc, 0xa3, 0x0a, 0x1d, 0x3c] := by decide +kernel
theorem test_rsClear :
    (run .fill .rsClear [] (base.setEnc { parity := [1, 2], rd := .pos })).enc =
      { parity := [0, 0], rd := .pos } := by decide +kernel
/-- V14 (j). -/
theorem test_rsRead :
    (run .fill (.rsRead 31) [] (run .fill (.rsUpdate 1) [] base)).fill.dout = [.byte 1] := by
  decide +kernel

theorem test_encReset :
    (run .fill .encReset [] (base.setEnc { base.enc with rd := .pos })).enc.rd = .neg := by
  decide +kernel
/-- V15: D24.6 at RD+. -/
theorem test_encByte :
    let t := run .fill (.encByte 0xd8) [] (base.setEnc { base.enc with rd := .pos })
    t.fill.dout = [.word10 0x0c6] ∧ t.enc.rd = .neg := by decide +kernel
/-- V15: D11.7 at RD+, the alternate form. -/
theorem test_encByte_alternate :
    let t := run .fill (.encByte 0xeb) [] (base.setEnc { base.enc with rd := .pos })
    t.fill.dout = [.word10 0x348] ∧ t.enc.rd = .neg := by decide +kernel
/-- R191. -/
theorem test_encSync :
    let t := run .fill .encSync [] (base.setEnc { base.enc with rd := .pos })
    t.fill.dout = [.word10 0x305] ∧ t.enc.rd = .neg := by decide +kernel

/-- The first four words of the source's frame (V4) and the parity of its first four bytes (V14 (f)). -/
theorem test_frameEncode :
    let t := run .fill .frameEncode (bytes [0x51, 0x01, 0x40, 0xd8]) base
    t.fill.dout.take 4 = [.word10 0x235, .word10 0x1d4, .word10 0x275, .word10 0x0c6] ∧
      t.fill.dout.length = 37 ∧ t.enc.parity.take 4 = [0x14, 0xa0, 0x79, 0x61] := by decide +kernel
/-- R205: after reset the frame goes to slot 1. -/
theorem test_frameFill :
    let t := run .fill .frameFill (bytes [0x51, 0x01, 0x40, 0xd8]) base
    t.hand.buf1.take 4 = [0x235, 0x1d4, 0x275, 0x0c6] ∧ t.hand.ready = .one ∧
      t.hand.fillState = .idle ∧ t.hand.active = .zero := by decide +kernel
theorem test_frameRdy :
    (run .cmd .frameRdy [] (base.setHand { base.hand with ready := .one })).cmd.dout = [.bit true] := by
  decide +kernel
theorem test_frameReq :
    (run .cmd .frameReq [] (base.setHand { base.hand with ready := .one, fillState := .idle })).hand =
      { base.hand with ready := .one, active := .one, fillState := .requested } := by decide +kernel
/-- R210: after reset it returns 1. -/
theorem test_framePoll : (run .fill .framePoll [] base).fill.dout = [.bit true] := by decide +kernel
/-- V4: the third bit of `0x0FA` is 1. -/
theorem test_frameNextbit :
    (run .cmd .frameNextbit [] (base.setIter { firstPacket := true, bitsSent := 2, wordsSent := 0 })).cmd.dout
      = [.bit true] := by decide +kernel
/-- P2 (b): a late boundary. -/
theorem test_frameNextbit_late :
    let t := run .cmd .frameNextbit []
      (base.setIter { firstPacket := false, bitsSent := 10, wordsSent := 36 })
    t.flt.evt = [.refillLate .requested] ∧ t.flt.fault = 0x04 ∧
      t.iter = { firstPacket := false, bitsSent := 1, wordsSent := 0 } := by decide +kernel

/-- R222: 60 samples per bit. -/
theorem test_modInit :
    (run .cmd .modInit [.int 200, .int 4] base).modu.samplesPerBit = some 60 := by decide +kernel
/-- R222: no whole sample per bit. -/
theorem test_modInit_refused :
    (run .cmd .modInit [.int 13000, .int 4] base).flt.evt = [.cfgInvalid 0x131] := by decide +kernel

/-- A modulator ready to send, three samples per bit, levels 1/4 and -1/4 (R224's example). -/
def v17 (m : ModState) (bit : Bool) (sent ones zeros : Nat) (iter : IterRegs) : State :=
  ((base.setPar { base.par with oneValue := some (1 / 4), zeroValue := some (-1 / 4) }).setModu
    { state := m, currentBit := bit, samplesSent := sent, onesRun := ones, zerosRun := zeros,
      samplesPerBit := some 3 }).setIter iter

/-- R224's example: the first sample is -1/4. -/
theorem test_modBit :
    let t := run .cmd .modBit []
      (v17 .starting false 0 0 0 { firstPacket := true, bitsSent := 0, wordsSent := 0 })
    t.cmd.dout = [.num (-1 / 4)] ∧ t.modu.samplesSent = 1 ∧ t.modu.zerosRun = 1 ∧
      t.iter.bitsSent = 1 := by decide +kernel
/-- R224's example: the seventh sample starts the third bit, a one. -/
theorem test_modBit_next :
    let t := run .cmd .modBit []
      (v17 .withinBit false 3 0 2 { firstPacket := true, bitsSent := 2, wordsSent := 0 })
    t.cmd.dout = [.num (1 / 4)] ∧ t.modu.onesRun = 1 ∧ t.modu.zerosRun = 0 := by decide +kernel

/-- At the end of a frame, a FRAME.FILL about to publish slot 1, which holds ones; slot 0 holds zeros. -/
def atSwap (turns : List Turn) : State :=
  (((v17 .withinBit false 3 0 2 { firstPacket := false, bitsSent := 10, wordsSent := 36 }).setHand
    { base.hand with fillState := .filling, buf1 := List.replicate 37 0x3FF }).setFillJob
      (some (.written .one))).setTurns turns

/-- R69 (c), R208: published before the boundary access, the new frame is taken; after it, the boundary is
late and the frame waits for the next one. -/
theorem test_interleave :
    (let t := run .cmd .modBit [] (atSwap [.fill, .cmd])
     t.cmd.dout = [.num (1 / 4)] ∧ t.flt.evt = [] ∧ t.hand.active = .one ∧
       t.hand.fillState = .requested) ∧
    (let t := run .cmd .modBit [] (atSwap [.cmd, .fill, .cmd])
     t.cmd.dout = [.num (-1 / 4)] ∧ t.flt.evt = [.refillLate .filling] ∧ t.hand.active = .zero ∧
       t.hand.ready = .one ∧ t.hand.fillState = .idle) ∧
    (let t := run .cmd .modBit [] (atSwap [])
     t.flt.evt = [.refillLate .filling] ∧ t.hand.ready = .zero) := by decide +kernel

/-- The DUV machine of R251. -/
def r251 : State :=
  base.setPar { base.par with
    periodLen := 8, sampleRate := 8, decimationRate := 2, bps := some 2, telemEn := true
    oneValue := some (1 / 4), zeroValue := some (-1 / 4) }

/-- R251: a whole DUV period. -/
theorem test_procPeriod :
    let t := run .cmd (.procPeriod 8)
      (nums [1 / 8, 2 / 8, 3 / 8, 4 / 8, 4 / 8, 3 / 8, 2 / 8, 1 / 8] ++ [.duration (1 / 10000)]) r251
    t.cmd.dout = nums [-1 / 16, -1 / 16, 3 / 16, 3 / 16, 3 / 16, 3 / 16, -1 / 16, -1 / 16] ∧
      t.firDec.hist = [1 / 4, 1 / 8] ∧ t.firInt.hist = [-1 / 8, 0] ∧ t.modu.zerosRun = 2 ∧
      t.proc.ltCount = 1 ∧ t.flt.evt = [] := by decide +kernel
/-- V22: the fatal event. -/
theorem test_procPeriod_mismatch :
    let t := run .cmd (.procPeriod 7) (nums [0, 0, 0, 0, 0, 0, 0] ++ [.duration 0]) r251
    t.flt = { evt := [.periodMismatch 7], fault := 0x20, halted := true } := by decide +kernel

/-- A word that is delivered is the next that runs, on the port its row allows. -/
theorem test_withFetchWord :
    (after (step (base.withFetchWord 32 0x52000000)) base).cmd.dout = [.bit false] ∧
    (after (step (base.withFetchWord 32 0x55000000)) base).fill.dout = [.bit true] := by decide +kernel

/-! ## Witnesses: for each statement with hypotheses, a state and operands that meet them -/

theorem witness_EncodeDecode : decode 0x700001E0 = .ok (.procPeriod 480) := by decide

theorem witness_RefusalEffect :
    ((∃ w, Event.cmdIllegal 0 = .cmdIllegal w) ∧ (0x40 : BitVec 8) = 0x40) ∧
    ((∃ n, Event.cfgInvalid 6 = .cfgInvalid n) ∧ (0x80 : BitVec 8) = 0x80) :=
  ⟨⟨⟨0, rfl⟩, rfl⟩, ⟨⟨6, rfl⟩, rfl⟩⟩

/-- The tiny machine halted. -/
def haltedBase : State := base.setFlt { evt := [.periodMismatch 1], fault := 0x20, halted := true }

/-- Each bound of R104 from both sides: legal at it, illegal next to it. -/
theorem witness_IllegalRefused :
    (legal .cmd (.firLoadc .bit 3) (on .cmd [.num 0] base) = true ∧
      legal .cmd (.firLoadc .bit 4) (on .cmd [.num 0] base) = false) ∧
    (legal .cmd (.iirLoadc 1 .a0) (on .cmd [.num 0] base) = true ∧
      legal .cmd (.iirLoadc 2 .a0) (on .cmd [.num 0] base) = false) ∧
    (legal .cmd (.iirSetn 1) base = true ∧ legal .cmd (.iirSetn 2) base = true ∧
      legal .cmd (.iirSetn 0) base = false ∧ legal .cmd (.iirSetn 3) base = false) ∧
    (let s := State.resetOf { tiny with parityLen := 16 }
     legal .fill (.rsRead 15) s = true ∧ legal .fill (.rsRead 16) s = false) ∧
    (legal .cmd (.parSet .xrunCount) (on .cmd [.int 0] base) = true ∧
      legal .cmd (.parSet .samplesPerBit) (on .cmd [.int 0] base) = false ∧
      legal .cmd (.parSet .xrunCount) (on .cmd [.int (2 ^ 32)] base) = false) ∧
    (legal .cmd (.procPeriod 1) (on .cmd [.num 0, .duration 0] base) = true ∧
      legal .cmd (.procPeriod 1) (on .cmd [.num 0] base) = false ∧
      legal .cmd (.procPeriod 1) (on .cmd [.num 0, .duration (-1)] base) = false) ∧
    legal .cmd .rsClear base = false ∧ legal .fill .oscInit base = false ∧
    legal .cmd .oscInit haltedBase = false ∧ legal .cmd .faultGet haltedBase = true ∧
    legal .fill .frameFill (on .fill (bytes [0, 0, 0, 0]) base) = true ∧
    legal .fill .frameFill (on .fill (bytes [0, 0, 0, 0])
      (base.setHand { base.hand with fillState := .idle })) = false := by decide +kernel

theorem witness_PortTable :
    ((on .fill [] base).port = .fill ∧ (opOf (encode .oscInit)).toNat = 0x08 ∧
      0x08 ∉ [0x00, 0x30, 0x31, 0x32, 0x40, 0x41, 0x42, 0x50, 0x51, 0x52, 0x55, 0x82]) ∧
    (base.port = .cmd ∧ (opOf (encode .framePoll)).toNat = 0x55) := by decide

/-- The DUV machine with periods of one sample. -/
def onePeriod : State := r251.setPar { r251.par with periodLen := 1, decimationRate := 1 }

/-- Both neighbours of the right size, and an operation that sets `HALTED`. -/
theorem witness_PeriodMismatchHalts :
    (legal .cmd (.procPeriod 0) (on .cmd [.duration 0] onePeriod) = true ∧
      (0 : BitVec 20).toNat ≠ onePeriod.par.periodLen) ∧
    (legal .cmd (.procPeriod 2) (on .cmd [.num 0, .num 0, .duration 0] onePeriod) = true ∧
      (2 : BitVec 20).toNat ≠ onePeriod.par.periodLen) ∧
    onePeriod.flt.halted = false ∧
    (run .cmd (.procPeriod 0) [.duration 0] onePeriod).flt.halted = true := by decide +kernel

/-- Halted with nothing in progress, and with a FRAME.FILL between its steps, which a move of the FILL port
does not resume (R281). -/
theorem witness_HaltedFrozen :
    (∃ t, step haltedBase = .next t) ∧ haltedBase.flt.halted = true ∧
    (∀ rest, haltedBase.turns ≠ .reset :: rest) ∧
    (let s := ((haltedBase.setFillJob (some (.written .one))).setTurns [.fill])
     step s = .next (s.setTurns [])) :=
  ⟨⟨haltedBase, rfl⟩, rfl, fun _ h => (nomatch h), rfl⟩

theorem witness_ResetStep : (haltedBase.setTurns [.reset, .cmd]).turns = .reset :: [.cmd] := rfl

/-- A state with one transaction on each port. -/
def loaded (turns : List Turn) (w : Word) : State :=
  ((base.setCmd { inbox := [⟨w, []⟩], din := [], dout := [] }).setFill
    { inbox := [⟨w, []⟩], din := [], dout := [] }).setTurns turns

theorem witness_StepRunsCommand :
    decode 0x52000000 = .ok .frameRdy ∧
    (loaded [.cmd] 0x52000000).cmd.inbox = [⟨0x52000000, []⟩] ∧
    (loaded [.fill] 0x52000000).fillJob = none ∧
    (loaded [.fill] 0x52000000).fill.inbox = [⟨0x52000000, []⟩] ∧
    (loaded [] 0x52000000).turns = [] ∧
    ((loaded [] 0x52000000).setCmd .empty).cmd.inbox = [] ∧
    (let s := ((loaded [.fill] 0x82000000).setFlt haltedBase.flt).setFillJob (some (.written .one))
     decode 0x82000000 = .ok .faultGet ∧ s.flt.halted = true ∧ s.fillJob ≠ none) := by decide

theorem witness_StepRefusesOtherWords :
    decode 0x01000000 = .error (.reservedOpcode 0x01) ∧
    (loaded [.cmd] 0x01000000).cmd.inbox = [⟨0x01000000, []⟩] ∧
    (loaded [.fill] 0x01000000).fillJob = none ∧
    (loaded [.fill] 0x01000000).fill.inbox = [⟨0x01000000, []⟩] ∧
    (loaded [] 0x01000000).turns = [] ∧
    ((loaded [] 0x01000000).setCmd .empty).cmd.inbox = [] := by decide

/-- The tiny machine after reset meets every invariant. -/
theorem witness_invariants : SafeState base := by
  refine ⟨⟨?_, ⟨?_, ?_⟩, ⟨?_, ?_⟩, ⟨?_, ?_⟩, ?_, ?_, ?_, ?_, ?_, ?_, ?_⟩, ⟨?_, ?_, ?_, ?_⟩, ⟨?_, ?_, ?_⟩,
    ⟨?_, ?_, ?_, ?_, ?_, ?_⟩, ⟨?_, ?_, ?_, ?_⟩, ⟨?_, ?_, ?_, ?_, ?_, ?_, ?_, ?_, ?_⟩, ⟨?_, ?_, ?_⟩, ?_⟩
  all_goals first
    | decide +kernel
    | (intro _ h; cases h; done)
    | (intro _ h; obtain ⟨-, rfl⟩ := List.mem_replicate.mp h; exact ⟨rfl, rfl, rfl, rfl⟩)
    | (intro _; decide +kernel)
    | skip
  exact Iff.intro (fun h => nomatch h) (fun h => h.elim fun _ h => nomatch h)

/-- ShapeKept, CountersKept, ParametersKept, StickyKept, OnlyResetClears: a step from a safe state, which
has written cells (witness_invariants says that it is safe). -/
theorem witness_safe_step :
    (∃ t, step (base.withFetchWord 32 0x81000009) = .next t) ∧
    (∀ rest, (base.withFetchWord 32 0x81000009).turns ≠ .reset :: rest) ∧
    (base.fir .dec).coef[1]? = some (some (1 / 2)) ∧ base.iir.coefs[1]? = some .reset :=
  ⟨⟨_, rfl⟩, fun _ h => (nomatch h), by decide +kernel, rfl⟩

/-- A FRAME.FILL after its claim, and after its write. -/
def filling (j : FillJob) : State :=
  (base.setHand { base.hand with fillState := .filling }).setFillJob (some j)

theorem witness_SlotExclusion :
    (HandoffOk (filling (.claimed .one)) ∧
      (filling (.claimed .one)).fillJob = some (.claimed .one)) ∧
    (HandoffOk (filling (.written .one)) ∧
      (filling (.written .one)).fillJob = some (.written .one)) :=
  ⟨⟨⟨by decide, fun _ h => (by cases h; rfl), fun _ h => (nomatch h), fun _ => rfl⟩, rfl⟩,
    ⟨⟨by decide, fun _ h => (nomatch h), fun _ h => (by cases h; rfl), fun _ => rfl⟩, rfl⟩⟩

theorem witness_ResetSafe : tiny.wf = true ∧ Config.standard.wf = true := by decide +kernel

/-- A scheduled move, a move of an empty schedule, and the schedules of an interleaving point. -/
theorem witness_FillMovesAreIsolated :
    ((loaded [.fill] 0x40000000).turns = [.fill] ∧
      (∃ t, step (loaded [.fill] 0x40000000) = .next t) ∧ HandoffOk (loaded [.fill] 0x40000000)) ∧
    (let s := (loaded [] 0x40000000).setCmd .empty
     s.turns = [] ∧ s.cmd.inbox = [] ∧ ∃ t, step s = .next t) ∧
    ((atSwap [.fill, .cmd]).turns = .fill :: [.cmd] ∧
      (∃ t, step (atSwap [.fill, .cmd]) = .next t) ∧ (atSwap [.cmd]).turns = .cmd :: [] ∧
      (atSwap [.reset]).turns = .reset :: []) :=
  ⟨⟨rfl, ⟨_, rfl⟩, ⟨by decide, fun _ h => (nomatch h), fun _ h => (nomatch h), fun _ => rfl⟩⟩,
    ⟨rfl, rfl, ⟨_, rfl⟩⟩, rfl, ⟨_, rfl⟩, rfl, rfl⟩

theorem witness_CmdMovesAreIsolated :
    base.port = .cmd ∧ base.turns = [] ∧ (∃ t, exec .frameReq base = .next t) ∧
    (base.setHand { base.hand with fillState := .idle }).hand.fillState = .idle :=
  ⟨rfl, rfl, ⟨_, rfl⟩, rfl⟩

theorem witness_NopResult :
    (base.io base.port).din = [] ∧
    (opOf 0x00000001 = 0 ∧ immOf 0x00000001 ≠ 0) ∧ (opOf 0x00100000 = 0 ∧ unitOf 0x00100000 ≠ 0) ∧
    ((on .cmd [.num 0] base).io .cmd).din ≠ [] := by decide +kernel

/-- A written and an unwritten register; the read-only ones after reset (R40). -/
theorem witness_ParGetResult :
    base.port = .cmd ∧ base.cmd.din = [] ∧ parRead base .sampleRate = some (.int 48000) ∧
      parRead base .bps = none ∧ parRead base .samplesPerBit = none ∧
      parRead base .readyIndex = some (.bit false) ∧ parRead base .ltMin = some .noDuration ∧
      parRead base .curMode = some (.int 4) := by decide +kernel

/-- The ends of a legal range and the values next to them. -/
theorem witness_ParSetResult :
    Issued .cmd [.int 1] (on .cmd [.int 1] base) ∧ ParReg.decimationRate.readOnly = false ∧
    (Item.int 1).hasKind base.cfg.num (parKind .decimationRate) = true ∧
    (parWrite base.par (.int 1) .decimationRate).isSome = true ∧
    (parWrite base.par (.int 65535) .decimationRate).isSome = true ∧
    parWrite base.par (.int 0) .decimationRate = none ∧
    parWrite base.par (.int 65536) .decimationRate = none :=
  ⟨on_issued rfl, by decide +kernel⟩

theorem witness_ParSetReadsBack :
    ParReg.testToneFreq.readOnly = false ∧
    (Item.num 0).hasKind base.cfg.num (parKind .testToneFreq) = true ∧
    (parWrite base.par (.num 0) .testToneFreq).isSome = true ∧
    parWrite base.par (.num (-1)) .testToneFreq = none ∧
    (parWrite base.par (.int 1) .hpfEn).isSome = true ∧ parWrite base.par (.int 2) .hpfEn = none := by
  decide +kernel

theorem witness_PureReads :
    (haltedBase.port = .cmd ∧ (haltedBase.io .cmd).din = []) ∧ Issued .cmd [] (on .cmd [] base) ∧
    Issued .fill [] (on .fill [] base) ∧ (31 : BitVec 5).toNat < base.cfg.parityLen :=
  ⟨by decide, on_issued rfl, on_issued rfl, by decide⟩

theorem witness_OscillatorResults :
    Issued .cmd [] (on .cmd [] base) ∧ 1 ≤ base.par.sampleRate ∧ base.par.testToneFreq = none ∧
    (base.setPar { base.par with testToneFreq := some 0 }).par.testToneFreq = some 0 :=
  ⟨on_issued rfl, by decide, rfl, rfl⟩

theorem witness_PartialResets :
    (Issued .cmd [] (on .cmd [] base) ∧ (base.fir .bit).hist.length = base.cfg.firLen .bit ∧
      base.iir.regs.length = base.cfg.iirMaxSections) ∧
    (Issued .fill [] (on .fill [] base) ∧ base.enc.parity.length = base.cfg.parityLen) :=
  ⟨⟨on_issued rfl, by decide, by decide⟩, on_issued rfl, by decide⟩

/-- One coefficient, and an unwritten one. -/
theorem witness_FirStepResult :
    (Issued .cmd [.num 2] (on .cmd [.num 2] (base.setFirBit { coef := [some 3], hist := [0] })) ∧
      isNum .exact 2 = true ∧ ([some 3] : List (Option Rat)) = [(3 : Rat)].map some ∧
      ([0] : List Rat).length = [(3 : Rat)].length ∧ [(3 : Rat)] ≠ []) ∧
    none ∈ (base.fir .bit).coef :=
  ⟨⟨on_issued rfl, rfl, rfl, rfl, by simp⟩, by decide +kernel⟩

theorem witness_FirImpulseResponse :
    (v10 [0, 0, 0, 0]).cfg.num = .exact ∧
    ((v10 [0, 0, 0, 0]).fir .bit).coef = [(1 / 8 : Rat), 1 / 4, 1 / 2, 1 / 8].map some ∧
    ((v10 [0, 0, 0, 0]).fir .bit).hist = List.replicate 4 0 := by decide +kernel

theorem witness_FirLoadcResult :
    Issued .cmd [.num 5] (on .cmd [.num 5] base) ∧ isNum base.cfg.num 5 = true ∧
    (0 : BitVec 20).toNat < base.cfg.firLen .bit ∧ (3 : BitVec 20).toNat < base.cfg.firLen .bit :=
  ⟨on_issued rfl, rfl, by decide, by decide⟩

/-- One tap in the BIT instance. -/
def oneTap : State := State.resetOf { tiny with lBit := 1 }

theorem rc_one : rcArray oneTap.cfg .bit 4 1 0 = [2 * numPi .exact * (1 / 4)] := by
  norm_num [rcArray, tapArray, oneTap, State.resetOf, tiny, Config.firLen, tapTime,
    rcTap, numMul, numDiv, rnd, Config.standard]

theorem rrc_one : rrcArray oneTap.cfg .bit 4 1 0 = [1] := by
  have h := (numPi_pos .exact).ne'
  norm_num [rrcArray, tapArray, oneTap, State.resetOf, tiny, Config.firLen, tapTime,
    rrcTap, numMul, numDiv, numAdd, numSub, rnd, Config.standard, h]

/-- The gain of one positive tap is the tap. -/
theorem gain_one {x : Rat} (h : 0 < x) (norm : Norm) : tapGain .exact norm [x] = x := by
  cases norm with
  | sum => simp [tapGain, numSum, numAdd, rnd]
  | l2 =>
    simpa [tapGain, numSumSq, numAdd, numMul, rnd, pow_two] using numSqrt_sq h.le

theorem gain_rc_one (norm : Norm) :
    tapGain .exact norm (rcArray oneTap.cfg .bit 4 1 0) ≠ 0 := by
  have h : (0 : Rat) < 2 * numPi .exact * (1 / 4) := by
    have := numPi_pos .exact
    positivity
  rw [rc_one, gain_one h]
  exact h.ne'

theorem gain_rrc_one (norm : Norm) :
    tapGain .exact norm (rrcArray oneTap.cfg .bit 4 1 0) ≠ 0 := by
  rw [rrc_one, gain_one one_pos]
  exact one_ne_zero

/-- A BIT instance without taps. -/
def noTap : State := State.resetOf { tiny with lBit := 0 }

/-- Arguments in the domain at its edges and outside it; a zero gain (of an empty array), and gains that
are not zero (V11 (f)). -/
theorem witness_FirGenerators :
    Issued .cmd (nums [4, 1, 0]) (on .cmd (nums [4, 1, 0]) oneTap) ∧
    Issued .cmd (nums [4, 1, 0]) (on .cmd (nums [4, 1, 0]) noTap) ∧
    ((0 : Rat) < 4 ∧ (0 : Rat) < 1 ∧ (0 : Rat) ≤ 0 ∧ (0 : Rat) ≤ 1) ∧ ((1 : Rat) ≤ 1) ∧
    ¬ ((0 : Rat) < 0 ∧ (0 : Rat) < 1 ∧ (0 : Rat) ≤ 0 ∧ (0 : Rat) ≤ 1) ∧
    (∀ norm, tapGain noTap.cfg.num norm (rcArray noTap.cfg .bit 4 1 0) = 0 ∧
      tapGain noTap.cfg.num norm (rrcArray noTap.cfg .bit 4 1 0) = 0) ∧
    ∀ norm, tapGain oneTap.cfg.num norm (rcArray oneTap.cfg .bit 4 1 0) ≠ 0 ∧
      tapGain oneTap.cfg.num norm (rrcArray oneTap.cfg .bit 4 1 0) ≠ 0 :=
  ⟨on_issued rfl, on_issued rfl, by norm_num, by norm_num, by norm_num,
    fun norm => by cases norm <;> decide +kernel, fun norm => ⟨gain_rc_one norm, gain_rrc_one norm⟩⟩

/-- The domain, and an array whose L2 gain is a rational root. -/
theorem witness_CoefficientFormulas :
    tiny.num = .exact ∧ (0 : Rat) < 48000 ∧ (0 : Rat) < 6000 ∧ (0 : Rat) ≤ 0 ∧
    (oneTap.cfg.num = .exact ∧ 1 ≤ oneTap.cfg.firLen .bit ∧
      (∀ norm, tapGain .exact norm (rcArray oneTap.cfg .bit 4 1 0) ≠ 0) ∧
      ∃ q : Rat, q ^ 2 = ((rcArray oneTap.cfg .bit 4 1 0).map fun x => x ^ 2).sum) :=
  ⟨rfl, by norm_num, by norm_num, le_refl 0, rfl, by decide, gain_rc_one, 2 * numPi .exact * (1 / 4),
    by rw [rc_one]; simp⟩

/-- Both generators are accepted on one tap, with either normalisation. -/
theorem witness_GeneratedCoefficients : ∀ norm : Norm,
    Issued .cmd (nums [4, 1, 0]) (on .cmd (nums [4, 1, 0]) oneTap) ∧ oneTap.cfg.num = .exact ∧
    1 ≤ oneTap.cfg.firLen .bit ∧
    (∃ t, exec (.firGenrc .bit norm) (on .cmd (nums [4, 1, 0]) oneTap) = .next t ∧ t.flt = oneTap.flt) ∧
    (∃ t, exec (.firGenrrc .bit norm) (on .cmd (nums [4, 1, 0]) oneTap) = .next t ∧
      t.flt = oneTap.flt) := by
  intro norm
  have ok : genArgsOk 4 1 0 = true := by decide +kernel
  have stored : ∀ {t : List Rat} {s : State}, s.cfg.num = .exact → s.flt = oneTap.flt →
      tapGain .exact norm t ≠ 0 → (genStore .cmd .bit norm t s).flt = oneTap.flt := by
    intro t s hn hf hg
    rw [genStore, hn, if_neg hg]
    simpa using hf
  refine ⟨on_issued rfl, rfl, by decide, ⟨_, rfl, ?_⟩, ⟨_, rfl, ?_⟩⟩
  · have h : legal .cmd (.firGenrc .bit norm) (on .cmd (nums [4, 1, 0]) oneTap) = true := by
      cases norm <;> decide +kernel
    change (firGenrcOn .cmd .bit norm _).flt = _
    rw [firGenrcOn, accept_of_legal h]
    change (if genArgsOk 4 1 0 = true then
      genStore .cmd .bit norm (rcArray oneTap.cfg .bit 4 1 0) ((on .cmd (nums [4, 1, 0]) oneTap).clearDin .cmd)
      else _).flt = _
    rw [if_pos ok]
    exact stored rfl rfl (gain_rc_one norm)
  · have h : legal .cmd (.firGenrrc .bit norm) (on .cmd (nums [4, 1, 0]) oneTap) = true := by
      cases norm <;> decide +kernel
    change (firGenrrcOn .cmd .bit norm _).flt = _
    rw [firGenrrcOn, accept_of_legal h]
    change (if genArgsOk 4 1 0 = true then
      genStore .cmd .bit norm (rrcArray oneTap.cfg .bit 4 1 0) ((on .cmd (nums [4, 1, 0]) oneTap).clearDin .cmd)
      else _).flt = _
    rw [if_pos ok]
    exact stored rfl rfl (gain_rrc_one norm)

/-- Nothing loaded; an unwritten coefficient; `a0 = 2`; a cascade that runs. -/
theorem witness_IirStepResult :
    (Issued .cmd [.num 1] (on .cmd [.num 1] base) ∧ isNum .exact 1 = true ∧
      base.iir.regs.length = base.iir.coefs.length ∧ base.iir.nsec = none) ∧
    (let s := v13 .reset .zero 0
     s.iir.nsec = some 1 ∧ ∃ c ∈ s.iir.coefs.take 1, c.a0 = none) ∧
    (let s := v13 (section6 2 0 0 0 0 0) .zero 0
     s.iir.nsec = some 1 ∧ (∀ c ∈ s.iir.coefs.take 1, c.written = true) ∧
      ∃ c ∈ s.iir.coefs.take 1, c.a0 ≠ some 1) ∧
    (let s := v13 (section6 1 0 0 1 0 0) .zero 0
     s.iir.nsec = some 1 ∧ 1 ≤ s.iir.coefs.length ∧ (∀ c ∈ s.iir.coefs.take 1, c.written = true) ∧
      ∀ c ∈ s.iir.coefs.take 1, c.a0 = some 1) :=
  ⟨⟨on_issued rfl, rfl, by decide, rfl⟩, by decide +kernel, by decide +kernel, by decide +kernel⟩

theorem witness_IirLoads :
    Issued .cmd [.num 0] (on .cmd [.num 0] base) ∧ isNum base.cfg.num 0 = true ∧
    (0 : BitVec 4).toNat < base.cfg.iirMaxSections ∧ (1 : BitVec 4).toNat < base.cfg.iirMaxSections ∧
    (1 / 2 : Rat) ≠ 0 ∧ Issued .cmd [] (on .cmd [] base) ∧ 1 ≤ (1 : BitVec 20).toNat ∧
    (2 : BitVec 20).toNat ≤ base.cfg.iirMaxSections :=
  ⟨on_issued rfl, rfl, by decide, by decide, by norm_num, on_issued rfl, by decide, by decide⟩

theorem witness_RsUpdateResult :
    Issued .fill [] (on .fill [] base) ∧ base.cfg.wf = true ∧
      base.enc.parity.length = base.cfg.parityLen :=
  ⟨on_issued rfl, by decide +kernel, by decide⟩

theorem witness_RsLinear : ([0x51, 0x01] : List Byte).length = [0xff, 0x00].length := rfl

theorem witness_RsCodeWordDivisible : tiny.wf = true := by decide +kernel

theorem witness_EncodeWords : Issued .fill [] (on .fill [] base) := on_issued rfl

/-- FRAME.ENCODE and FRAME.FILL with nothing scheduled. -/
theorem witness_frames :
    let p : List Byte := [0x51, 0x01, 0x40, 0xd8]
    Issued .fill (p.map .byte) (on .fill (p.map .byte) base) ∧ p.length = base.cfg.dataLen ∧
      base.cfg.wf = true ∧ base.hand.fillState = .requested ∧ base.turns = [] :=
  ⟨on_issued rfl, by decide, by decide +kernel, rfl, rfl⟩

theorem witness_FrameFillSteps :
    let p : List Byte := [0x51, 0x01, 0x40, 0xd8]
    (Issued .fill (p.map .byte) (on .fill (p.map .byte) (base.setTurns [.cmd])) ∧
      p.length = base.cfg.dataLen ∧ base.hand.fillState = .requested) ∧
    (let s := on .fill (p.map .byte) ((filling (.claimed .one)).setTurns [.fill, .cmd])
     s.fillJob = some (.claimed .one) ∧ s.fill.din = p.map .byte ∧ s.cfg.wf = true ∧
       s.flt.halted = false ∧ s.turns = [.fill, .cmd]) ∧
    (let s := (filling (.written .one)).setTurns [.fill]
     s.fillJob = some (.written .one) ∧ s.flt.halted = false) :=
  ⟨⟨on_issued rfl, by decide, rfl⟩, ⟨rfl, rfl, by decide +kernel, rfl, rfl⟩, rfl, rfl⟩

theorem witness_FrameReqResult :
    Issued .cmd [] (on .cmd [] base) ∧ base.hand.fillState ≠ .idle ∧
    Issued .cmd [] (on .cmd [] (base.setHand { base.hand with fillState := .idle })) :=
  ⟨on_issued rfl, by decide, on_issued rfl⟩

/-- Inside a word, at a word's end, at the end of the sync word and of a frame, in and out of IDLE. -/
theorem witness_FrameNextbitResult :
    base.turns = [] ∧ Issued .cmd [] (on .cmd [] base) ∧ base.iter.wordsSent < base.cfg.frameLen ∧
    base.iter.bitsSent < 10 ∧ base.hand.fillState ≠ .idle ∧
    (let i : IterRegs := { firstPacket := false, bitsSent := 10, wordsSent := 35 }
     i.bitsSent = 10 ∧ i.firstPacket = false ∧ i.wordsSent + 1 < base.cfg.frameLen) ∧
    (let i : IterRegs := { firstPacket := false, bitsSent := 10, wordsSent := 36 }
     i.bitsSent = 10 ∧ i.wordsSent < base.cfg.frameLen ∧ i.wordsSent + 1 = base.cfg.frameLen) ∧
    (base.setHand { base.hand with fillState := .idle }).hand.fillState = .idle ∧
    (interleave (atSwap [.fill])).hand.fillState = .idle ∧
    (interleave (atSwap [])).hand.fillState ≠ .idle :=
  ⟨rfl, on_issued rfl, by decide, by decide, by decide, by decide, by decide, rfl, by decide, by decide⟩

theorem witness_FrameOnTheLine :
    let s := base.setIter { firstPacket := false, bitsSent := 0, wordsSent := 0 }
    s.iter = { firstPacket := false, bitsSent := 0, wordsSent := 0 } ∧
      (s.hand.buf s.hand.active).length = s.cfg.frameLen := by decide

/-- 48000 / 4 / 12000 is one sample per bit; 12001 gives none. -/
theorem witness_ModInitResult :
    Issued .cmd [.int 12000, .int 4] (on .cmd [.int 12000, .int 4] base) ∧
    base.firBit.hist.length = base.cfg.lBit ∧ base.par.sampleRate / 4 / 12000 = 1 ∧
    base.par.sampleRate / 4 / 12001 = 0 :=
  ⟨on_issued rfl, by decide, by decide, by decide⟩

/-- A machine with parameters for MOD.BIT, and the machine it runs on. -/
theorem witness_ModBitResult :
    let i : IterRegs := { firstPacket := true, bitsSent := 0, wordsSent := 0 }
    let s := v17 .starting false 0 0 0 i
    (Issued .cmd [] (on .cmd [] base) ∧ base.modu.samplesPerBit = none) ∧
    (s.modu.samplesPerBit = some 3 ∧ s.par.oneValue = some (1 / 4) ∧ s.par.zeroValue = some (-1 / 4) ∧
      (s.par.rampEn && !s.par.highSpeedEn) = false ∧ s.par.bitLpfEn = false) ∧
    (s.setPar { s.par with oneValue := none }).par.oneValue = none ∧
    (s.setPar { s.par with zeroValue := none }).par.zeroValue = none ∧
    (let r := { s.par with rampEn := true }
     (r.rampEn && !r.highSpeedEn) = true ∧ r.rampAmt = none) ∧
    none ∈ (s.setPar { s.par with bitLpfEn := true }).firBit.coef :=
  ⟨⟨on_issued rfl, rfl⟩, by decide +kernel, rfl, rfl, by decide +kernel, by decide +kernel⟩

/-- One sample per bit. -/
theorem witness_TestPatternSquareWave :
    let m : ModRegs := { state := .starting, currentBit := false, samplesSent := 0, onesRun := 0,
                         zerosRun := 0, samplesPerBit := some 1 }
    let s := (base.setPar { base.par with
      testPatternEn := true, oneValue := some 1, zeroValue := some (-1) }).setModu m
    s.modu = m ∧ s.par.testPatternEn = true ∧ s.par.bitLpfEn = false ∧ rampOn s.par = false ∧
      s.par.oneValue = some 1 ∧ s.par.zeroValue = some (-1) := by decide +kernel

/-- A period that is accepted, one whose configuration is refused, and the modes TONE and HS. -/
theorem witness_PeriodCompletes :
    let ins : List Rat := [0, 0, 0, 0, 0, 0, 0, 0]
    let frame := ins.map .num ++ [.duration 0]
    (Issued .cmd frame (on .cmd frame r251) ∧ (∀ x ∈ ins, isNum r251.cfg.num x = true) ∧ (0 : Rat) ≤ 0 ∧
      ins.length = (8 : BitVec 20).toNat ∧ (8 : BitVec 20).toNat = r251.par.periodLen ∧
      configFailure (on .cmd frame r251) = none) ∧
    (let s := r251.setPar { r251.par with bps := none }
     legal .cmd (.procPeriod 8) (on .cmd frame s) = true ∧
       configFailure (on .cmd frame s) = some 9) ∧
    resolveMode { r251.par with testToneEn := true } = .tone ∧
    resolveMode { r251.par with highSpeedEn := true } = .hs :=
  ⟨⟨on_issued rfl, fun _ _ => rfl, le_refl 0, rfl, rfl, by decide +kernel⟩, by decide +kernel, rfl, rfl⟩

/-- The four modes; the conditions of DUV with the high-pass filter, one state for each. -/
theorem witness_ConfigurationTests :
    let par (r : ParRegs) := (base.setPar r).par
    resolveMode (par { base.par with testToneEn := true }) = .tone ∧
    resolveMode (par { base.par with toneMeasEn := true }) = .measure ∧
    resolveMode (par { base.par with highSpeedEn := true }) = .hs ∧ resolveMode base.par = .duv ∧
    7 % 2 ≠ 0 ∧ base.par.periodLen % base.par.decimationRate = 0 ∧
    none ∈ (FirRegs.reset 2 []).coef ∧ none ∉ (base.fir .dec).coef ∧ none ∉ (base.fir .int).coef ∧
    base.iir.nsec = none ∧
    (∃ c ∈ (v13 .reset .zero 0).iir.coefs.take 1, c.a0 = none) ∧
    (∃ c ∈ (v13 (section6 2 0 0 0 0 0) .zero 0).iir.coefs.take 1, c.a0 ≠ some 1) ∧
    (∀ c ∈ (v13 (section6 1 0 0 0 0 0) .zero 0).iir.coefs.take 1, c.a0 = some 1) := by
  decide +kernel

theorem witness_ModeEntry :
    r251.firDec.hist.length = r251.cfg.lDec ∧ r251.firInt.hist.length = r251.cfg.lInt ∧
    r251.firBit.hist.length = r251.cfg.lBit ∧ r251.iir.regs.length = r251.cfg.iirMaxSections ∧
    r251.proc.curKey ≠ some (modeKeyOf r251.par) ∧
    (enterMode r251).proc.curKey = some (modeKeyOf r251.par) := by decide +kernel

/-- A MEASURE machine inside its window, and at its last period. -/
def measuring (count : Nat) : State :=
  let r := { base.par with toneMeasEn := true, periodLen := 2 }
  (base.setPar r).setProc { base.proc with curKey := some (modeKeyOf r), measCount := count }

/-- Inside a window, at its end, and with the mode not entered yet. -/
theorem witness_MeasurePeriod :
    let frame := ([0, -3 / 4] : List Rat).map .num ++ [.duration 0]
    Issued .cmd frame (on .cmd frame (measuring 0)) ∧
    (∀ x ∈ ([0, -3 / 4] : List Rat), isNum .exact x = true) ∧ (0 : Rat) ≤ 0 ∧
    ([0, -3 / 4] : List Rat).length = (2 : BitVec 20).toNat ∧
    (2 : BitVec 20).toNat = (measuring 0).par.periodLen ∧ resolveMode (measuring 0).par = .measure ∧
    (enterMode (measuring 0)).proc.measCount + 1 ≠ (measuring 0).cfg.measWindow ∧
    (enterMode (measuring 1)).proc.measCount + 1 = (measuring 1).cfg.measWindow ∧
    (let s := (measuring 1).setProc { (measuring 1).proc with curKey := none }
     (enterMode s).proc.measCount = 0) :=
  ⟨on_issued rfl, fun _ _ => rfl, le_refl 0, rfl, rfl, rfl, by decide +kernel, by decide +kernel,
    by decide +kernel⟩

/-- Just above the limit and at it; inside a window and at its end. -/
theorem witness_PeriodMonitors :
    (base.cfg.clipLimit < |(5 / 4 : Rat)| ∧ base.proc.clipLogged = false) ∧
    |(-1 : Rat)| ≤ base.cfg.clipLimit ∧ base.proc.ltCount + 1 ≠ base.cfg.ltWindow ∧
    (base.setProc { base.proc with ltCount := 1 }).proc.ltCount + 1 = base.cfg.ltWindow := by
  decide +kernel

/-- R251's machine: a sample at the limit, one above it, and the first clip already logged. -/
theorem witness_DuvAudioPath :
    resolveMode r251.par = .duv ∧ 1 ≤ r251.par.decimationRate ∧
    ([0, 0, 0, 0, 0, 0, 0, 0] : List Rat).length = r251.par.periodLen ∧
    r251.par.periodLen % r251.par.decimationRate = 0 ∧ r251.proc.clipLogged = false ∧
    (let s := r251.setPar { r251.par with telemEn := false }
     (runMode [1, 1, 0, 0, 0, 0, 0, 0] s).1 = [1, 1, 0, 0, 0, 0, 0, 0] ∧
       (runMode [1, 1, 0, 0, 0, 0, 0, 0] s).2.flt.evt = [] ∧
       (runMode [1, 1, 0, 0, 2, 2, 0, 0] s).2.flt.evt = [.clip 4]) := by decide +kernel

end Sys2Proof.Machine.Test
end

section
/-! The statements of spec 00_scope.md: the invariants every step keeps (O16, O18, O19), their reset
state (O21), totality (O14), the refusals (O5), the oscillator (O29) and `FIR.STEP` (O31). As in the tests,
`Elab.async` is off so that no elaboration task holds a thread of its own. -/

namespace Sys2Proof.Machine

set_option Elab.async false

/-! ## Frames of the CMD side

The register groups each procedure of the CMD side leaves alone. Each lemma is a set of rewrite rules for
`simp`, so that a proof about one group passes over the procedures that never write it. -/

section
variable (s : State)

@[simp] theorem oscRestart_frame (q : Num) :
    (oscRestart q s).cfg = s.cfg ∧ (oscRestart q s).firDec = s.firDec ∧
    (oscRestart q s).firInt = s.firInt ∧ (oscRestart q s).firBit = s.firBit ∧
    (oscRestart q s).iir = s.iir ∧ (oscRestart q s).enc = s.enc ∧ (oscRestart q s).hand = s.hand ∧
    (oscRestart q s).iter = s.iter ∧ (oscRestart q s).modu = s.modu ∧
    (oscRestart q s).proc = s.proc := by
  simp [oscRestart]

@[simp] theorem oscNext_frame (sel : TableSel) :
    (oscNext sel s).2.cfg = s.cfg ∧ (oscNext sel s).2.firDec = s.firDec ∧
    (oscNext sel s).2.firInt = s.firInt ∧ (oscNext sel s).2.firBit = s.firBit ∧
    (oscNext sel s).2.iir = s.iir ∧ (oscNext sel s).2.enc = s.enc ∧
    (oscNext sel s).2.hand = s.hand ∧ (oscNext sel s).2.iter = s.iter ∧
    (oscNext sel s).2.modu = s.modu ∧ (oscNext sel s).2.proc = s.proc ∧
    (oscNext sel s).2.par = s.par := by
  simp [oscNext]

@[simp] theorem firClear_frame (f : FirInst) :
    (firClear f s).cfg = s.cfg ∧ (firClear f s).osc = s.osc ∧ (firClear f s).iir = s.iir ∧
    (firClear f s).enc = s.enc ∧ (firClear f s).hand = s.hand ∧ (firClear f s).iter = s.iter ∧
    (firClear f s).modu = s.modu ∧ (firClear f s).proc = s.proc := by
  simp [firClear]

@[simp] theorem firStep_frame (f : FirInst) (x : Num) :
    (firStep f x s).2.cfg = s.cfg ∧ (firStep f x s).2.osc = s.osc ∧ (firStep f x s).2.iir = s.iir ∧
    (firStep f x s).2.enc = s.enc ∧ (firStep f x s).2.hand = s.hand ∧
    (firStep f x s).2.iter = s.iter ∧ (firStep f x s).2.modu = s.modu ∧
    (firStep f x s).2.proc = s.proc ∧ (firStep f x s).2.par = s.par := by
  simp [firStep_eq]

/-- The overflow guard writes the IIR registers and may emit an event (R153). -/
theorem iirGuard_cases :
    iirGuard s = s ∨ iirGuard s = s.setIir s.iir.zeroed ∨
    iirGuard s = (s.setIir { s.iir.zeroed with ovfLogged := true }).emit .iirOvf := by
  unfold iirGuard
  split
  · split
    · exact .inr (.inl rfl)
    · exact .inr (.inr rfl)
  · exact .inl rfl

@[simp] theorem iirGuard_frame :
    (iirGuard s).cfg = s.cfg ∧ (iirGuard s).osc = s.osc ∧ (iirGuard s).firDec = s.firDec ∧
    (iirGuard s).firInt = s.firInt ∧ (iirGuard s).firBit = s.firBit ∧ (iirGuard s).enc = s.enc ∧
    (iirGuard s).hand = s.hand ∧ (iirGuard s).iter = s.iter ∧ (iirGuard s).modu = s.modu ∧
    (iirGuard s).proc = s.proc ∧ (iirGuard s).par = s.par := by
  rcases iirGuard_cases s with h | h | h <;> simp [h]

/-- Crossing a boundary restarts the iterator in the next frame, and latches the published frame or
reports a late refill (R207, R208). -/
theorem crossBoundary_cases :
    crossBoundary s = (s.setIter { firstPacket := false, bitsSent := 0, wordsSent := 0 }).setHand
      s.hand.latch ∨
    ∃ fs, crossBoundary s =
      (s.setIter { firstPacket := false, bitsSent := 0, wordsSent := 0 }).emit (.refillLate fs) := by
  unfold crossBoundary frameBoundary
  dsimp only
  split
  · exact .inl rfl
  · exact .inr ⟨_, rfl⟩
  · exact .inr ⟨_, rfl⟩

@[simp] theorem crossBoundary_iter :
    (crossBoundary s).iter = { firstPacket := false, bitsSent := 0, wordsSent := 0 } := by
  rcases crossBoundary_cases s with h | ⟨fs, h⟩ <;> simp [h]

@[simp] theorem crossBoundary_frame :
    (crossBoundary s).cfg = s.cfg ∧ (crossBoundary s).osc = s.osc ∧
    (crossBoundary s).firDec = s.firDec ∧ (crossBoundary s).firInt = s.firInt ∧
    (crossBoundary s).firBit = s.firBit ∧ (crossBoundary s).iir = s.iir ∧
    (crossBoundary s).enc = s.enc ∧ (crossBoundary s).modu = s.modu ∧
    (crossBoundary s).proc = s.proc ∧ (crossBoundary s).par = s.par := by
  rcases crossBoundary_cases s with h | ⟨fs, h⟩ <;> simp [h]

@[simp] theorem HandRegs.latch_buf0 (h : HandRegs) : h.latch.buf0 = h.buf0 := by
  unfold HandRegs.latch
  split <;> rfl

@[simp] theorem HandRegs.latch_buf1 (h : HandRegs) : h.latch.buf1 = h.buf1 := by
  unfold HandRegs.latch
  split <;> rfl

/-- A frame boundary never writes a frame buffer (R34, R208). -/
@[simp] theorem crossBoundary_bufs :
    (crossBoundary s).hand.buf0 = s.hand.buf0 ∧ (crossBoundary s).hand.buf1 = s.hand.buf1 := by
  rcases crossBoundary_cases s with h | ⟨fs, h⟩ <;> simp [h]

@[simp] theorem modRestart_frame (n : Nat) :
    (modRestart n s).cfg = s.cfg ∧ (modRestart n s).osc = s.osc ∧ (modRestart n s).iir = s.iir ∧
    (modRestart n s).enc = s.enc ∧ (modRestart n s).hand = s.hand ∧
    (modRestart n s).proc = s.proc := by
  simp [modRestart]

@[simp] theorem modRestart_iter (n : Nat) :
    (modRestart n s).iter = { firstPacket := true, bitsSent := 0, wordsSent := 0 } := by
  simp [modRestart]

@[simp] theorem modRestart_modu (n : Nat) :
    (modRestart n s).modu =
      { state := .starting, currentBit := false, samplesSent := 0, onesRun := 0, zerosRun := 0,
        samplesPerBit := some n } := by
  simp [modRestart]

/-- The window test of MEASURE mode closes the window or counts the period (R240). -/
theorem measureWindow_cases :
    (s.proc.measCount + 1 = s.cfg.measWindow ∧
      measureWindow s =
        (s.setProc { s.proc with peak := 0, measCount := 0 }).emit (.peakReport s.proc.peak)) ∨
    (s.proc.measCount + 1 ≠ s.cfg.measWindow ∧
      measureWindow s = s.setProc { s.proc with measCount := s.proc.measCount + 1 }) := by
  unfold measureWindow
  dsimp only
  split
  · exact .inl ⟨‹_›, rfl⟩
  · exact .inr ⟨‹_›, rfl⟩

@[simp] theorem measureWindow_frame :
    (measureWindow s).cfg = s.cfg ∧ (measureWindow s).osc = s.osc ∧
    (measureWindow s).firDec = s.firDec ∧ (measureWindow s).firInt = s.firInt ∧
    (measureWindow s).firBit = s.firBit ∧ (measureWindow s).iir = s.iir ∧
    (measureWindow s).enc = s.enc ∧ (measureWindow s).hand = s.hand ∧
    (measureWindow s).iter = s.iter ∧ (measureWindow s).modu = s.modu ∧
    (measureWindow s).par = s.par := by
  rcases measureWindow_cases s with ⟨-, h⟩ | ⟨-, h⟩ <;> simp [h]

/-- The loop timing closes its window, warned or not, or accumulates (R252). -/
theorem loopTiming_proc (dt : Duration) :
    ((ltAdd s.proc dt).ltCount = s.cfg.ltWindow ∧
      (loopTiming dt s).proc = ltClear (ltAdd s.proc dt)) ∨
    ((ltAdd s.proc dt).ltCount ≠ s.cfg.ltWindow ∧ (loopTiming dt s).proc = ltAdd s.proc dt) := by
  unfold loopTiming
  dsimp only
  split
  · exact .inl ⟨‹_›, rfl⟩
  · exact .inr ⟨‹_›, rfl⟩

@[simp] theorem loopTiming_frame (dt : Duration) :
    (loopTiming dt s).cfg = s.cfg ∧ (loopTiming dt s).osc = s.osc ∧
    (loopTiming dt s).firDec = s.firDec ∧ (loopTiming dt s).firInt = s.firInt ∧
    (loopTiming dt s).firBit = s.firBit ∧ (loopTiming dt s).iir = s.iir ∧
    (loopTiming dt s).enc = s.enc ∧ (loopTiming dt s).hand = s.hand ∧
    (loopTiming dt s).iter = s.iter ∧ (loopTiming dt s).modu = s.modu ∧
    (loopTiming dt s).par = s.par := by
  unfold loopTiming
  dsimp only
  split
  · split <;> simp
  · simp

end

/-! ### What FILLER leaves alone -/

/-- Two states agree on the configuration and on every register of the CMD side, which no move of FILLER
writes (R69, R295). -/
structure SameCmdSide (s t : State) : Prop where
  cfg : t.cfg = s.cfg
  osc : t.osc = s.osc
  firDec : t.firDec = s.firDec
  firInt : t.firInt = s.firInt
  firBit : t.firBit = s.firBit
  iir : t.iir = s.iir
  iter : t.iter = s.iter
  modu : t.modu = s.modu
  proc : t.proc = s.proc
  par : t.par = s.par

theorem fillClaim_sameCmdSide (s : State) : SameCmdSide s (fillClaim s) := by
  constructor <;> simp [fillClaim]

theorem fillWrite_sameCmdSide (p : Port) (slot : Slot) (s : State) :
    SameCmdSide s (fillWrite p slot s) := by
  constructor <;> simp [fillWrite]

theorem fillPublish_sameCmdSide (slot : Slot) (s : State) :
    SameCmdSide s (fillPublish slot s) := by
  constructor <;> simp [fillPublish]

section
variable {P : State → Prop}

/-- A property of the CMD side is kept by every update FILLER makes. -/
theorem FillKept.of_cmdSide (hP : ∀ {s t}, SameCmdSide s t → P s → P t) : FillKept P where
  io s p x := hP (by constructor <;> simp)
  turns _ _ := hP (by constructor <;> rfl)
  event _ _ _ _ := hP (by constructor <;> rfl)
  clearParity _ := hP (by constructor <;> rfl)
  rsUpdate _ _ := hP (by constructor <;> rfl)
  setRd _ _ := hP (by constructor <;> rfl)
  encode _ _ := hP (by constructor <;> rfl)
  claim s _ := hP (fillClaim_sameCmdSide s)
  write s p slot _ := hP (fillWrite_sameCmdSide p slot s)
  publish s slot _ := hP (fillPublish_sameCmdSide slot s)

/-- A property of the CMD side that every update keeps, and that reset keeps, is kept by every step: the
fatal event writes no register of that side. -/
theorem step_keeps_cmdSide (K : Kept P) (hP : ∀ {s t}, SameCmdSide s t → P s → P t)
    (hreset : ∀ {s}, P s → P (State.resetOf s.cfg)) {s t : State} (h : P s)
    (he : step s = .next t) : P t :=
  step_keeps K (fun _ _ => hP (by constructor <;> rfl))
    (fun _ _ => hP (s := State.resetOf s.cfg) (by constructor <;> rfl) (hreset h)) h he

end

/-! ## The reset state (O21)

Each invariant at the reset state of a legal configuration (R58, R310). -/

/-- The bounds R6 puts on the sizes of a legal configuration. -/
theorem sizes_of_wf {c : Config} (h : c.wf = true) :
    1 ≤ c.lDec ∧ 1 ≤ c.lInt ∧ 1 ≤ c.lBit ∧ 1 ≤ c.parityLen ∧ c.rsGen.length = c.parityLen + 1 ∧
    1 ≤ c.measWindow ∧ 1 ≤ c.ltWindow := by
  simp only [Config.wf, Bool.and_eq_true, decide_eq_true_eq] at h
  tauto

/-- A filter after reset has its length. -/
theorem FirRegs.reset_fits (len : Nat) (contents : List Num) :
    (FirRegs.reset len contents).fits len := by
  simp [FirRegs.fits, FirRegs.reset]

theorem IirCoefs.reset_reservedZero : IirCoefs.reset.reservedZero := ⟨rfl, rfl, rfl, rfl⟩

theorem ShapeOk.resetOf {c : Config} (h : c.wf = true) : ShapeOk (State.resetOf c) where
  config := h
  dec := FirRegs.reset_fits _ _
  int := FirRegs.reset_fits _ _
  bit := FirRegs.reset_fits _ _
  coefs := List.length_replicate
  regs := List.length_replicate
  nsec _ hn := nomatch hn
  reserved _ hc := List.eq_of_mem_replicate hc ▸ IirCoefs.reset_reservedZero
  parity := List.length_replicate
  buf0 := List.length_replicate
  buf1 := List.length_replicate

theorem HandoffOk.resetOf (c : Config) : HandoffOk (State.resetOf c) where
  filling := by simp [State.resetOf]
  claimed _ h := nomatch h
  written _ h := nomatch h
  latched _ := rfl

/-- A frame has its sync word at least (R200). -/
theorem frameLen_pos (c : Config) : 0 < c.frameLen := Nat.succ_pos _

theorem IterOk.resetOf (c : Config) : IterOk (State.resetOf c) where
  bits := Nat.zero_le _
  words := frameLen_pos c
  first _ := rfl

theorem ParamsOk.resetOf (c : Config) : ParamsOk (State.resetOf c) := by
  constructor <;> simp [State.resetOf, ParRegs.reset]

theorem ModulatorOk.resetOf (c : Config) : ModulatorOk (State.resetOf c) := by
  constructor <;> simp [State.resetOf]

theorem WindowsOk.resetOf {c : Config} (hm : 1 ≤ c.measWindow) (hl : 1 ≤ c.ltWindow) :
    WindowsOk (State.resetOf c) where
  measWindow := hm
  ltWindow := hl
  peak := le_rfl
  measCount := hm
  ltMax := le_rfl
  ltMin _ h := nomatch h
  ltTotal := le_rfl
  ltCount := hl
  maxReg := le_rfl

theorem StickyOk.resetOf (c : Config) : StickyOk (State.resetOf c) := by
  constructor <;> simp [State.resetOf, faultOf, ovfCount]

theorem PhaseOk.resetOf (c : Config) : PhaseOk (State.resetOf c) :=
  fun _ => ⟨le_rfl, zero_lt_one⟩

/-- Settles O21: each invariant holds at reset. -/
theorem resetSafe : Obligations.ResetSafe := by
  intro c h
  obtain ⟨-, -, -, -, -, hmeas, hlt⟩ := sizes_of_wf h
  exact {
    shape := .resetOf h
    handoff := .resetOf c
    iter := .resetOf c
    params := .resetOf c
    modulator := .resetOf c
    windows := .resetOf hmeas hlt
    sticky := .resetOf c
    phase := .resetOf c }

/-! ## Array sizes (O16)

An update that writes an array keeps its length; every other one leaves the arrays alone. -/

section
variable {s t : State}

/-- The shape reads the configuration and the registers that are arrays, or stand beside one. -/
theorem ShapeOk.of_eq (h : ShapeOk s) (hcfg : t.cfg = s.cfg := by simp)
    (hdec : t.firDec = s.firDec := by simp) (hint : t.firInt = s.firInt := by simp)
    (hbit : t.firBit = s.firBit := by simp) (hiir : t.iir = s.iir := by simp)
    (henc : t.enc = s.enc := by simp) (h0 : t.hand.buf0 = s.hand.buf0 := by simp)
    (h1 : t.hand.buf1 = s.hand.buf1 := by simp) : ShapeOk t := by
  obtain ⟨_, _, _, _, _, _, _, _, _, _, _⟩ := h
  constructor <;> simpa only [hcfg, hdec, hint, hbit, hiir, henc, h0, h1]

theorem ShapeOk.fir (h : ShapeOk s) : ∀ f, (s.fir f).fits (s.cfg.firLen f)
  | .dec => h.dec
  | .int => h.int
  | .bit => h.bit

theorem ShapeOk.setFir (h : ShapeOk s) {f : FirInst} {x : FirRegs} (hx : x.fits (s.cfg.firLen f)) :
    ShapeOk (s.setFir f x) := by
  cases f with
  | dec => exact { h with dec := hx }
  | int => exact { h with int := hx }
  | bit => exact { h with bit := hx }

theorem ShapeOk.setParity (h : ShapeOk s) {x : EncRegs} (hx : x.parity.length = s.enc.parity.length) :
    ShapeOk (s.setEnc x) := { h with parity := hx.trans h.parity }

theorem ShapeOk.setHand (h : ShapeOk s) {x : HandRegs} (h0 : x.buf0.length = s.cfg.frameLen)
    (h1 : x.buf1.length = s.cfg.frameLen) : ShapeOk (s.setHand x) := { h with buf0 := h0, buf1 := h1 }

/-- Every filter has a tap. -/
theorem ShapeOk.firLen_pos (h : ShapeOk s) (f : FirInst) : 1 ≤ s.cfg.firLen f := by
  obtain ⟨hdec, hint, hbit, -⟩ := sizes_of_wf h.config
  cases f <;> assumption

/-- The generator polynomial reaches past the parity array, which is not empty (R6, R166). -/
theorem ShapeOk.parity_bounds (h : ShapeOk s) :
    1 ≤ s.cfg.parityLen ∧ s.cfg.parityLen ≤ s.cfg.rsGen.length := by
  obtain ⟨-, -, -, hp, hg, -⟩ := sizes_of_wf h.config
  omega

theorem ShapeOk.encodeFrame_parity (h : ShapeOk s) (rd : Disparity) (payload : List Byte) :
    (encodeFrame s.cfg rd payload).2.parity.length = s.enc.parity.length := by
  obtain ⟨hp, hg⟩ := h.parity_bounds
  rw [encodeFrame_eq, rsParity_length payload hp hg, h.parity]

end

theorem slotWords_length (n : Nat) (ws : List Word10) : (slotWords n ws).length = n := by
  simp [slotWords]

/-- Clearing a filter's history keeps its lengths. -/
theorem FirRegs.zeroed_fits {x : FirRegs} {len : Nat} (h : x.fits len) : x.zeroed.fits len :=
  ⟨h.1, List.length_replicate.trans h.2⟩

theorem ShapeOk.firClear {s : State} (h : ShapeOk s) (f : FirInst) : ShapeOk (firClear f s) :=
  h.setFir (FirRegs.zeroed_fits (h.fir f))

theorem ShapeOk.firStep {s : State} (h : ShapeOk s) (f : FirInst) (x : Num) :
    ShapeOk (firStep f x s).2 := by
  obtain ⟨hcoef, hhist⟩ := h.fir f
  have hne : (s.fir f).hist ≠ [] := List.ne_nil_of_length_pos (hhist ▸ h.firLen_pos f)
  exact h.setFir ⟨hcoef, (firShift_length x hne).trans hhist⟩

theorem ShapeOk.modRestart {s : State} (h : ShapeOk s) (n : Nat) : ShapeOk (modRestart n s) := by
  refine ShapeOk.firClear ?_ .bit
  exact h.of_eq

/-- Writing a whole slot keeps both buffers at the frame's length (R205). -/
theorem ShapeOk.setBuf {s : State} (h : ShapeOk s) (slot : Slot) {ws : List Word10}
    (hws : ws.length = s.cfg.frameLen) : ShapeOk (s.setHand (s.hand.setBuf slot ws)) := by
  cases slot with
  | zero => exact h.setHand hws h.buf1
  | one => exact h.setHand h.buf0 hws

theorem ShapeOk.fillWrite {s : State} (h : ShapeOk s) (p : Port) (slot : Slot) :
    ShapeOk (fillWrite p slot s) := by
  have hparity := h.encodeFrame_parity s.enc.rd ((s.io p).din.map Item.byteVal)
  have hbuf := (h.setParity hparity).setBuf slot (slotWords_length s.cfg.frameLen
    (encodeFrame s.cfg s.enc.rd ((s.io p).din.map Item.byteVal)).1)
  cases p <;> exact hbuf.of_eq rfl rfl rfl rfl rfl rfl rfl rfl

/-- Zeroing the sections keeps their number (R152). -/
theorem IirRegs.zeroed_regs_length (r : IirRegs) : r.zeroed.regs.length = r.regs.length :=
  List.length_replicate

theorem ShapeOk.setIirRegs {s : State} (h : ShapeOk s) {x : IirRegs} (hnsec : x.nsec = s.iir.nsec)
    (hcoefs : x.coefs = s.iir.coefs) (hregs : x.regs.length = s.iir.regs.length) :
    ShapeOk (s.setIir x) :=
  { h with
    coefs := (congrArg List.length hcoefs).trans h.coefs
    regs := hregs.trans h.regs
    nsec := hnsec ▸ h.nsec
    reserved := hcoefs ▸ h.reserved }

/-- The cascade writes the sections it runs over and keeps their number (R153). -/
theorem iirRun_regs_length (f : NumFormat) (r : IirRegs) (x : Num) :
    (iirRun f r x).2.regs.length = r.regs.length := by
  simp [iirRun, iirCascade_length]

theorem ShapeOk.iirGuard {s : State} (h : ShapeOk s) : ShapeOk (iirGuard s) := by
  rcases iirGuard_cases s with hg | hg | hg <;> rw [hg]
  · exact h
  · exact h.setIirRegs rfl rfl s.iir.zeroed_regs_length
  · exact (h.setIirRegs (x := { s.iir.zeroed with ovfLogged := true }) rfl rfl
      s.iir.zeroed_regs_length).of_eq

/-- Loading a coefficient never writes a reserved field (R157). -/
theorem IirCoefs.load_reservedZero {c : IirCoefs} (h : c.reservedZero) (v : Num) (cid : IirCoef) :
    (c.load v cid).reservedZero := by
  cases cid <;> exact h

theorem ShapeOk.iirLoad {s : State} (h : ShapeOk s) (k : Nat) (v : Num) (cid : IirCoef) :
    ShapeOk (s.setIir { s.iir with coefs := s.iir.coefs.modify k fun c => c.load v cid }) := by
  refine { h with coefs := by simpa using h.coefs, reserved := ?_ }
  refine List.forall_mem_iff_forall_getElem.2 fun i hi => ?_
  have hi' : i < s.iir.coefs.length := by simpa using hi
  have hc := h.reserved _ (List.getElem_mem hi')
  simp only [State.setIir_iir, List.getElem_modify]
  split
  · exact IirCoefs.load_reservedZero hc v cid
  · exact hc

/-- What every update does to the arrays. -/
theorem shapeOk_kept : Kept ShapeOk := by
  constructor
  case toFillKept =>
    constructor
    case clearParity => exact fun _ h => h.setParity List.length_replicate
    case rsUpdate =>
      intro s d h
      obtain ⟨hp, hg⟩ := h.parity_bounds
      exact h.setParity (rsUpdate_length d (h.parity ▸ hp) (h.parity ▸ hg))
    case setRd => exact fun _ _ h => h.setParity rfl
    case encode => exact fun _ payload h => h.setParity (h.encodeFrame_parity _ payload)
    case write => exact fun _ p slot _ h => h.fillWrite p slot
    case io => exact fun _ _ _ h => h.of_eq
    case claim => exact fun _ _ h => h.of_eq rfl rfl rfl rfl rfl rfl rfl rfl
    case publish => exact fun _ _ _ h => h.of_eq rfl rfl rfl rfl rfl rfl rfl rfl
    case turns => exact fun _ _ h => h.of_eq
    case event => exact fun _ _ _ _ h => h.of_eq
  case firClear => exact fun _ f h => h.firClear f
  case firStep => exact fun _ f x h => h.firStep f x
  case firLoad => exact fun s f _ _ h => h.setFir ⟨List.length_set.trans (h.fir f).1, (h.fir f).2⟩
  case firFill =>
    exact fun s f cs hcs h => h.setFir ⟨(List.length_map _).trans hcs, (h.fir f).2⟩
  case iirZero => exact fun s h => h.setIirRegs rfl rfl s.iir.zeroed_regs_length
  case iirGuard => exact fun _ h => h.iirGuard
  case iirRun => exact fun _ x h => h.setIirRegs rfl rfl (iirRun_regs_length _ _ x)
  case iirLoad => exact fun _ k v cid h => h.iirLoad k v cid
  case iirSetn =>
    intro s n hpos hmax h
    exact { h with nsec := fun m hm => by cases hm; exact ⟨hpos, hmax⟩ }
  case latch => exact fun s h => h.setHand (by simpa using h.buf0) (by simpa using h.buf1)
  case modRestart => exact fun _ n _ _ h => h.modRestart n
  all_goals
    intros
    rename_i h
    exact h.of_eq

/-- Settles O16: reset makes the arrays anew, every other update keeps their lengths. -/
theorem shapeKept : Obligations.ShapeKept := fun _ _ h he =>
  step_keeps shapeOk_kept (fun _ _ h => h.of_eq)
    (fun _ _ => (ShapeOk.resetOf h.config).of_eq rfl rfl rfl rfl rfl rfl rfl rfl) h he

/-! ## Iterator, windows, phase (O18)

All three are properties of the CMD side; each is a `Kept` whose named cases are the
updates that write the registers it reads. -/

section
variable {s t : State}

/-! ### The bit iterator -/

theorem IterOk.of_eq (h : IterOk s) (hcfg : t.cfg = s.cfg := by simp)
    (hiter : t.iter = s.iter := by simp) : IterOk t := by
  obtain ⟨_, _, _⟩ := h
  constructor <;> simpa only [hcfg, hiter]

/-- At the first word of a frame, before its first bit, the iterator is in its ranges. -/
theorem IterOk.at_start {b : Bool}
    (h : t.iter = { firstPacket := b, bitsSent := 0, wordsSent := 0 }) : IterOk t := by
  constructor <;> rw [h]
  · exact Nat.zero_le _
  · exact frameLen_pos _
  · exact fun _ => rfl

/-- Away from a boundary there is a next word in the frame (R207). -/
theorem atBoundary_false (h : atBoundary s = false) :
    s.iter.firstPacket = false ∧ s.iter.wordsSent + 1 ≠ s.cfg.frameLen := by
  simpa [atBoundary] using h

theorem iterOk_kept : Kept IterOk := by
  constructor
  case toFillKept => exact .of_cmdSide fun e h => h.of_eq e.cfg e.iter
  case cross => exact fun s _ _ => .at_start (crossBoundary_iter s)
  case modRestart => exact fun s n _ _ _ => .at_start (modRestart_iter s n)
  case nextWord =>
    intro s _ hb h
    obtain ⟨hfirst, hword⟩ := atBoundary_false hb
    exact {
      bits := Nat.zero_le _
      words := lt_of_le_of_ne h.words hword
      first := fun hf => by simp [hfirst] at hf }
  case takeBit => exact fun s hne h => { h with bits := lt_of_le_of_ne h.bits hne }
  all_goals
    intros
    rename_i h
    exact h.of_eq

/-! ### The windows -/

theorem WindowsOk.of_eq (h : WindowsOk s) (hcfg : t.cfg = s.cfg := by simp)
    (hproc : t.proc = s.proc := by simp) (hiir : t.iir.maxReg = s.iir.maxReg := by simp) : WindowsOk t := by
  obtain ⟨_, _, _, _, _, _, _, _, _⟩ := h
  constructor <;> simpa only [hcfg, hproc, hiir]

theorem numAbs_nonneg (a : Num) : 0 ≤ numAbs a := numAbs_eq_abs a ▸ abs_nonneg a

theorem le_numMax_left (a b : Num) : a ≤ numMax a b := by
  unfold numMax
  split
  · exact le_of_lt ‹_›
  · exact le_rfl

/-- The tracker never falls along the cascade (R153). -/
theorem le_iirCascade_maxReg (f : NumFormat) : ∀ (l : List (IirCoefs × IirSection)) (v m : Num),
    m ≤ (iirCascade f l v m).2.2
  | [], _, _ => le_rfl
  | _ :: rest, _, m =>
    ((le_numMax_left m _).trans (le_numMax_left _ _)).trans (le_iirCascade_maxReg f rest _ _)

theorem le_iirRun_maxReg (f : NumFormat) (r : IirRegs) (x : Num) : r.maxReg ≤ (iirRun f r x).2.maxReg :=
  le_iirCascade_maxReg f _ x r.maxReg

theorem WindowsOk.iirGuard (h : WindowsOk s) : WindowsOk (iirGuard s) := by
  rcases iirGuard_cases s with hg | hg | hg <;> rw [hg]
  · exact h
  · exact { h with maxReg := le_rfl }
  · exact { h with maxReg := le_rfl }

theorem WindowsOk.measureWindow (h : WindowsOk s) : WindowsOk (measureWindow s) := by
  rcases measureWindow_cases s with ⟨-, hw⟩ | ⟨hne, hw⟩ <;> rw [hw]
  · exact { h with peak := le_rfl, measCount := h.measWindow }
  · exact { h with measCount := lt_of_le_of_ne h.measCount hne }

/-- A duration that is not negative keeps the accumulators not negative (R252). -/
theorem ltAdd_nonneg {p : ProcRegs} {dt : Duration} (hdt : 0 ≤ dt) (hmax : 0 ≤ p.ltMax)
    (hmin : ∀ d, p.ltMin = some d → 0 ≤ d) (htotal : 0 ≤ p.ltTotal) :
    0 ≤ (ltAdd p dt).ltMax ∧ (∀ d, (ltAdd p dt).ltMin = some d → 0 ≤ d) ∧ 0 ≤ (ltAdd p dt).ltTotal := by
  refine ⟨?_, fun d hd => ?_, add_nonneg htotal hdt⟩
  · simp only [ltAdd]
    split <;> assumption
  · cases hm : p.ltMin with
    | none =>
      simp only [ltAdd, hm, Option.some.injEq] at hd
      exact hd ▸ hdt
    | some m =>
      simp only [ltAdd, hm] at hd
      split at hd <;> cases hd
      · exact hdt
      · exact hmin _ hm

theorem WindowsOk.loopTiming (h : WindowsOk s) {dt : Duration} (hdt : 0 ≤ dt) :
    WindowsOk (loopTiming dt s) := by
  obtain ⟨hmax, hmin, htotal⟩ := ltAdd_nonneg hdt h.ltMax h.ltMin h.ltTotal
  rcases loopTiming_proc s dt with ⟨-, hp⟩ | ⟨hne, hp⟩
  · have hclear : WindowsOk (s.setProc (ltClear (ltAdd s.proc dt))) :=
      { h with ltMax := le_rfl, ltMin := nofun, ltTotal := le_rfl, ltCount := h.ltWindow }
    exact hclear.of_eq (hproc := hp)
  · have hadd : WindowsOk (s.setProc (ltAdd s.proc dt)) :=
      { h with
        ltMax := hmax, ltMin := hmin, ltTotal := htotal, ltCount := lt_of_le_of_ne h.ltCount hne }
    exact hadd.of_eq (hproc := hp)

theorem windowsOk_kept : Kept WindowsOk := by
  constructor
  case toFillKept =>
    exact .of_cmdSide fun e h => h.of_eq e.cfg e.proc (congrArg IirRegs.maxReg e.iir)
  case iirZero => exact fun _ h => { h with maxReg := le_rfl }
  case iirGuard => exact fun _ h => h.iirGuard
  case iirRun => exact fun s x h => { h with maxReg := h.maxReg.trans (le_iirRun_maxReg _ _ x) }
  case clipLatch => exact fun _ _ h => { h with }
  case keyLatch => exact fun _ h => { h with }
  case peakReset => exact fun _ h => { h with peak := le_rfl, measCount := h.measWindow }
  case peakRaise => exact fun _ x h => { h with peak := numAbs_nonneg x }
  case window => exact fun _ h => h.measureWindow
  case timing => exact fun _ _ hdt h => h.loopTiming hdt
  all_goals
    intros
    rename_i h
    exact h.of_eq

/-! ### The phase -/

theorem PhaseOk.of_eq (h : PhaseOk s) (hcfg : t.cfg = s.cfg := by simp)
    (hosc : t.osc = s.osc := by simp) : PhaseOk t := by
  unfold PhaseOk
  rwa [hcfg, hosc]

/-- With exact numbers the advanced phase is a fractional part (R124). -/
theorem oscAdvance_exact (o : OscRegs) : oscAdvance .exact o = Int.fract (o.phase + o.inc) := rfl

theorem phaseOk_kept : Kept PhaseOk := by
  constructor
  case toFillKept => exact .of_cmdSide fun e h => h.of_eq e.cfg e.osc
  case oscRestart => exact fun _ _ _ _ => ⟨le_rfl, zero_lt_one⟩
  case oscNext =>
    intro s sel _ hexact
    have hphase : (oscNext sel s).2.osc.phase = Int.fract (s.osc.phase + s.osc.inc) := by
      rw [← oscAdvance_exact, ← show s.cfg.num = .exact from hexact]
      rfl
    rw [hphase]
    exact ⟨Int.fract_nonneg _, Int.fract_lt_one _⟩
  all_goals
    intros
    rename_i h
    exact h.of_eq

end

/-- Settles O18: each of the three is kept by every update, and holds at reset. -/
theorem countersKept : Obligations.CountersKept := fun _ _ he =>
  ⟨fun h => step_keeps_cmdSide iterOk_kept (fun e h => h.of_eq e.cfg e.iter)
      (fun _ => .resetOf _) h he,
    fun h => step_keeps_cmdSide windowsOk_kept
      (fun e h => h.of_eq e.cfg e.proc (congrArg IirRegs.maxReg e.iir))
      (fun h => .resetOf h.measWindow h.ltWindow) h he,
    fun h => step_keeps_cmdSide phaseOk_kept (fun e h => h.of_eq e.cfg e.osc)
      (fun _ => .resetOf _) h he⟩

/-! ## Parameters and modulator (O19)

`PAR.SET` is the one writer of the store; `SAMPLES_PER_BIT` is at most a legal `SAMPLE_RATE`. -/

section
variable {s t : State}

theorem ParamsOk.of_eq (h : ParamsOk s) (hpar : t.par = s.par := by simp) : ParamsOk t := by
  obtain ⟨_, _, _, _, _, _⟩ := h
  constructor <;> simpa only [hpar]

theorem ModulatorOk.of_eq (h : ModulatorOk s) (hmodu : t.modu = s.modu := by simp) : ModulatorOk t := by
  obtain ⟨_, _, _, _⟩ := h
  constructor <;> simpa only [hmodu]

/-- A write an int register accepts stores a value in the register's range (R40). -/
theorem intIn_map_some {α : Type} {lo hi : Nat} {v : Item} {f : Nat → α} {x : α}
    (hw : (intIn lo hi v).map f = some x) : ∃ n, (lo ≤ n ∧ n ≤ hi) ∧ f n = x := by
  unfold intIn at hw
  split at hw <;> cases hw
  exact ⟨_, ‹_›, rfl⟩

/-- A write that `PAR.SET` accepts leaves legal values (R40, R262). -/
theorem ParamsOk.parWrite (h : ParamsOk s) {v : Item} {r : ParReg} {x : ParRegs}
    (hw : parWrite s.par v r = some x) : ParamsOk (s.setPar x) := by
  cases r
  case sampleRate =>
    obtain ⟨n, ⟨hlo, hhi⟩, rfl⟩ := intIn_map_some hw
    exact { h with sampleRate := ⟨hlo, Nat.lt_succ_of_le hhi⟩ }
  case bps =>
    obtain ⟨n, ⟨hlo, hhi⟩, rfl⟩ := intIn_map_some hw
    exact { h with bps := fun m hm => by cases hm; exact ⟨hlo, Nat.lt_succ_of_le hhi⟩ }
  case decimationRate =>
    obtain ⟨n, ⟨hlo, hhi⟩, rfl⟩ := intIn_map_some hw
    exact { h with decimationRate := ⟨hlo, Nat.lt_succ_of_le hhi⟩ }
  case periodLen =>
    obtain ⟨n, ⟨hlo, hhi⟩, rfl⟩ := intIn_map_some hw
    exact { h with periodLen := ⟨hlo, Nat.lt_succ_of_le hhi⟩ }
  case xrunCount =>
    obtain ⟨n, ⟨-, hhi⟩, rfl⟩ := intIn_map_some hw
    exact { h with xrunCount := Nat.lt_succ_of_le hhi }
  case testToneFreq =>
    simp only [Machine.parWrite] at hw
    split at hw <;> cases hw
    exact { h with testToneFreq := by simpa }
  case rampAmt | oneValue | zeroValue | toneLevel =>
    cases hw
    exact { h with }
  case hpfEn | bitLpfEn | telemEn | highSpeedEn | testPatternEn | testToneEn | toneMeasEn | rampEn
      | toneKind =>
    obtain ⟨b, -, rfl⟩ := Option.map_eq_some_iff.1 hw
    exact { h with }
  case samplesPerBit | readyIndex | peak | ltMax | ltMin | ltTotal | ltCount | curMode => cases hw

theorem paramsOk_kept : Kept ParamsOk := by
  constructor
  case toFillKept => exact .of_cmdSide fun e h => h.of_eq e.par
  case parSet => exact fun _ _ _ _ hw h => h.parWrite hw
  all_goals
    intros
    rename_i h
    exact h.of_eq

theorem sat_lt (n : Nat) : sat n < 2 ^ 32 := by
  unfold sat
  omega

/-- A restarted modulator has counted nothing (R222). -/
theorem ModulatorOk.modRestart {n : Nat} (hpos : 1 ≤ n) (hn : n < 2 ^ 32) :
    ModulatorOk (modRestart n s) := by
  constructor <;> rw [modRestart_modu]
  case samplesPerBit => exact fun m hm => by cases hm; exact ⟨hpos, hn⟩
  case samplesSent => exact Nat.zero_le _
  case onesRun | zerosRun => exact Nat.two_pow_pos 32

theorem ModulatorOk.modStart (h : ModulatorOk s) (b : Bool) : ModulatorOk (s.setModu (s.modu.start b)) := by
  cases b with
  | true =>
    exact { h with
      samplesSent := Nat.zero_le _, onesRun := sat_lt _, zerosRun := Nat.two_pow_pos 32 }
  | false =>
    exact { h with
      samplesSent := Nat.zero_le _, onesRun := Nat.two_pow_pos 32, zerosRun := sat_lt _ }

/-- The modulator's bounds hold with the parameter store's: a restart takes its samples per bit from the
sample rate (R220). -/
theorem paramsOk_modulatorOk_kept : Kept fun s => ParamsOk s ∧ ModulatorOk s := by
  constructor
  case toFillKept => exact .of_cmdSide fun e ⟨hp, hm⟩ => ⟨hp.of_eq e.par, hm.of_eq e.modu⟩
  case parSet => exact fun _ _ _ _ hw ⟨hp, hm⟩ => ⟨hp.parWrite hw, hm.of_eq⟩
  case modRestart =>
    exact fun _ n hpos hn ⟨hp, _⟩ =>
      ⟨hp.of_eq, .modRestart hpos (hn.trans_lt hp.sampleRate.2)⟩
  case modStart => exact fun _ b ⟨hp, hm⟩ => ⟨hp.of_eq, hm.modStart b⟩
  case modTick =>
    intro s hsent ⟨hp, hm⟩
    refine ⟨hp.of_eq, { hm with samplesSent := ?_ }⟩
    simp only [State.setModu_modu]
    omega
  all_goals
    intros
    rename_i h
    exact ⟨h.1.of_eq, h.2.of_eq⟩

end

/-- Settles O19: the store alone is kept, and with it the modulator's bounds. -/
theorem parametersKept : Obligations.ParametersKept := fun _ _ he hp =>
  ⟨step_keeps_cmdSide paramsOk_kept (fun e h => h.of_eq e.par) (fun _ => .resetOf _) hp he,
    fun hm => (step_keeps_cmdSide paramsOk_modulatorOk_kept
      (fun e ⟨hp, hm⟩ => ⟨hp.of_eq e.par, hm.of_eq e.modu⟩)
      (fun _ => ⟨.resetOf _, .resetOf _⟩) ⟨hp, hm⟩ he).2⟩

/-! ## Totality (O14) -/

/-- Every operation answers a next state, in every state (R70). -/
theorem exec_next (i : Instr) (s : State) : ∃ t, exec i s = .next t := by
  cases i <;> exact ⟨_, rfl⟩

theorem portMove_next (p : Port) (s : State) : ∃ t, portMove p s = .next t := by
  unfold portMove
  split
  · exact ⟨_, rfl⟩
  · unfold runWord
    split
    · exact ⟨_, rfl⟩
    · exact exec_next _ _

theorem fillPortMove_next (s : State) : ∃ t, fillPortMove s = .next t := by
  unfold fillPortMove
  split
  · exact ⟨_, rfl⟩
  · exact portMove_next _ _

theorem step_next (s : State) : ∃ t, step s = .next t := by
  unfold step nextMove
  split
  · exact portMove_next _ _
  · exact fillPortMove_next _
  · exact ⟨_, rfl⟩
  · split
    · exact fillPortMove_next _
    · exact portMove_next _ _

/-- No update writes the configuration (R6). -/
theorem cfg_kept (c : Config) : Kept fun s => s.cfg = c := by
  constructor
  case toFillKept => exact .of_cmdSide fun e h => e.cfg.trans h
  all_goals
    intros
    rename_i h
    exact Eq.trans (by simp) h

theorem step_cfg {s t : State} (he : step s = .next t) : t.cfg = s.cfg :=
  step_keeps_cmdSide (cfg_kept s.cfg) (fun e h => e.cfg.trans h) id rfl he

/-- Settles O14: no arm stops, and no update writes the configuration. -/
theorem stepTotal : Obligations.StepTotal := fun s =>
  let ⟨t, he⟩ := step_next s
  ⟨t, he, step_cfg he⟩

/-! ## Refusals (O5) -/

theorem faultBit_cmdIllegal (w : Word) : (Event.cmdIllegal w).faultBit = 0x40 := rfl

theorem faultBit_cfgInvalid (n : Nat) : (Event.cfgInvalid n).faultBit = 0x80 := rfl

/-- Settles O5: the refused command's event sets the bit of its code, and its frame goes. -/
theorem refusalEffect : Obligations.RefusalEffect := by
  rintro s e bit (⟨⟨w, rfl⟩, rfl⟩ | ⟨⟨n, rfl⟩, rfl⟩)
  · rw [← faultBit_cmdIllegal w]
    exact ⟨rfl, rfl⟩
  · rw [← faultBit_cfgInvalid n]
    exact ⟨rfl, rfl⟩

/-- A refusal discards the frame, popped or not (R102). -/
@[simp] theorem refuse_clearDin (p : Port) (e : Event) (s : State) :
    refuse p e (s.clearDin p) = refuse p e s := by
  cases p <;> rfl

/-! ## Oscillator (O29) -/

section
variable {s : State}

/-- A legal command issued with an empty frame runs its body on the state as it is. -/
theorem Issued.accept_empty {p : Port} {i : Instr} {body : List Item → State → State}
    (h : Issued p [] s) (hl : Machine.legal p i s = true) : accept p i s body = body [] s := by
  rw [accept_of_legal hl, h.din, clearDin_of_empty h.din]

/-- `OSC.INIT` with a written frequency restarts the oscillator (R123). -/
theorem exec_oscInit_of_some (h : Issued .cmd [] s) {q : Num} (hq : s.par.testToneFreq = some q) :
    exec .oscInit s = .next (oscRestart q s) := by
  change Host.Outcome.next (oscInitOn s.port s) = _
  rw [h.port, oscInitOn, h.accept_empty (h.legal rfl rfl rfl rfl)]
  simp only [hq]

/-- `OSC.INIT` with an unwritten frequency is refused with the register's number (R123, R283). -/
theorem exec_oscInit_of_none (h : Issued .cmd [] s) (hq : s.par.testToneFreq = none) :
    Refuses .oscInit s (.cfgInvalid 6) := by
  change Host.Outcome.next (oscInitOn s.port s) = _
  rw [h.port, oscInitOn, h.accept_empty (h.legal rfl rfl rfl rfl)]
  simp only [hq]

/-- `OSC.NEXT` on the CMD port (R124). -/
theorem exec_oscNext (h : Issued .cmd [] s) (sel : TableSel) :
    exec (.oscNext sel) s = .next ((oscNext sel s).2.push .cmd (.num (oscNext sel s).1)) := by
  change Host.Outcome.next (oscNextOn s.port sel s) = _
  rw [h.port, oscNextOn, h.accept_empty (h.legal rfl rfl rfl rfl)]

/-- A quotient by a divisor that is not 0 is rounded once (R12). -/
theorem numDiv_of_ne_zero {f : NumFormat} {a b : Num} (hb : b ≠ 0) : numDiv f a b = rnd f (a / b) :=
  if_neg hb

/-- The table index, its bound written as a test (R124). -/
theorem oscIndex_eq (c : Config) (phase : Num) :
    oscIndex c phase =
      if c.tableLen ≤ (Rat.floor (rnd c.num (phase * (c.tableLen : Rat)))).toNat then c.tableLen - 1
      else (Rat.floor (rnd c.num (phase * (c.tableLen : Rat)))).toNat := by
  unfold oscIndex numMul
  split <;> omega

/-- Settles O29: the sample rate is not 0, so the increment is one rounded quotient. -/
theorem oscillatorResults : Obligations.OscillatorResults := by
  refine ⟨fun s h hrate => ⟨fun q hq => ?_, exec_oscInit_of_none h⟩, fun s sel h => ?_⟩
  · have hne : (s.par.sampleRate : Rat) ≠ 0 := by exact_mod_cast Nat.one_le_iff_ne_zero.1 hrate
    rw [exec_oscInit_of_some h hq, ← numDiv_of_ne_zero hne]
    rfl
  · rw [exec_oscNext h]
    dsimp only
    rw [← oscIndex_eq]
    cases sel <;> rfl

/-! ## FIR.STEP (O31) -/

/-- `FIR.STEP` on the CMD port (R133). -/
theorem exec_firStep {f : FirInst} {x : Num} (h : Issued .cmd [.num x] s)
    (hx : isNum s.cfg.num x = true) :
    exec (.firStep f) s = .next (if (s.fir f).written then
        (firStep f x (s.clearDin .cmd)).2.push .cmd (.num (firStep f x (s.clearDin .cmd)).1)
      else refuse .cmd (.cfgInvalid (0x100 + firNumber f)) s) := by
  have hl : legal .cmd (.firStep f) s = true :=
    h.legal rfl rfl rfl (by simp [rowDin, kindsMatch, Item.hasKind, hx])
  change Host.Outcome.next (firStepOn s.port f s) = _
  rw [h.port, firStepOn, accept_of_legal hl, h.din]
  simp only [State.clearDin_fir, refuse_clearDin, operand, List.getD_cons_zero, Item.numVal]

theorem FirRegs.written_of_coef {r : FirRegs} {c : List Num} (h : r.coef = c.map some) :
    r.written = true := by
  simp [FirRegs.written, h]

theorem FirRegs.values_of_coef {r : FirRegs} {c : List Num} (h : r.coef = c.map some) :
    r.values = c := by
  simp [FirRegs.values, h]

theorem FirRegs.written_of_none_mem {r : FirRegs} (h : none ∈ r.coef) : r.written = false := by
  simpa [FirRegs.written] using h

theorem firNumber_eq_code (f : FirInst) : firNumber f = f.code.toNat := by
  cases f <;> rfl

/-- With every coefficient written `fir_step` answers the dot product in ascending index (R133). -/
theorem firStep_of_coef {f : FirInst} {x : Num} {c : List Num} (hc : (s.fir f).coef = c.map some)
    (hlen : (s.fir f).hist.length = c.length) (hne : c ≠ []) :
    firStep f x s =
      ((List.range c.length).foldl (fun acc i => rnd s.cfg.num
          (acc + rnd s.cfg.num (c.getD i 0 * (firShift (s.fir f).hist x).getD i 0))) 0,
        s.setFir f { s.fir f with hist := firShift (s.fir f).hist x }) := by
  have hhist : (s.fir f).hist ≠ [] :=
    List.ne_nil_of_length_pos (hlen ▸ List.length_pos_iff.2 hne)
  have hshift : c.length = (firShift (s.fir f).hist x).length :=
    hlen.symm.trans (firShift_length x hhist).symm
  rw [firStep_eq, FirRegs.values_of_coef hc, numDot_eq_foldl _ _ _ _ hshift]

end

/-- Settles O31: the popped frame is not read by the filter, and one unwritten cell refuses. -/
theorem firStepResult : Obligations.FirStepResult := by
  intro s f x h hx
  refine ⟨fun c hc hlen hne => ⟨firStep_of_coef hc hlen hne, ?_⟩, fun hnone => ?_⟩
  · have hclear : firStep f x (s.clearDin .cmd) = _ :=
      firStep_of_coef (s := s.clearDin .cmd) (by simpa using hc) (by simpa using hlen) hne
    rw [exec_firStep h hx, if_pos (FirRegs.written_of_coef hc), hclear]
    cases f <;> rfl
  · unfold Refuses
    rw [exec_firStep h hx, if_neg (by simp [FirRegs.written_of_none_mem hnone]), h.port,
      firNumber_eq_code]

end Sys2Proof.Machine
end

section
/-! The statements of spec 10_state.md: the sticky registers (O20, O15), legality in full (O6), the moves of
FILLER (O22), the parameter store (O25 to O27), the IIR loads (O39) and reset (O10, O11). As in the tests,
`Elab.async` is off so that no elaboration task holds a thread of its own. -/

namespace Sys2Proof.Machine

set_option Elab.async false

/-! ## The event log and the sticky registers

What each update of the machine does to `EVT`, `FAULT`, `HALTED`: nothing, one event, or the halt. -/

section
variable (s : State)

@[simp] theorem oscRestart_flt (q : Num) : (oscRestart q s).flt = s.flt := rfl

@[simp] theorem oscNext_flt (sel : TableSel) : (oscNext sel s).2.flt = s.flt := rfl

@[simp] theorem firClear_flt (f : FirInst) : (firClear f s).flt = s.flt := by simp [firClear]

@[simp] theorem firStep_flt (f : FirInst) (x : Num) : (firStep f x s).2.flt = s.flt := by
  simp [firStep_eq]

@[simp] theorem modRestart_flt (n : Nat) : (modRestart n s).flt = s.flt := rfl

@[simp] theorem fillClaim_flt : (fillClaim s).flt = s.flt := rfl

@[simp] theorem fillWrite_flt (p : Port) (slot : Slot) : (fillWrite p slot s).flt = s.flt := by
  simp [fillWrite]

@[simp] theorem fillPublish_flt (slot : Slot) : (fillPublish slot s).flt = s.flt := rfl

end

/-- `t` has the event log of `s`, or the log with one more event, which is neither `IIR_OVF` nor the fatal
one. -/
def LogsPlain (s t : State) : Prop :=
  t.flt = s.flt ∨ ∃ e : Event, e ≠ .iirOvf ∧ (∀ n, e ≠ .periodMismatch n) ∧ t.flt = s.flt.emit e

section
variable (s : State)

theorem emit_logsPlain {e : Event} (hovf : e ≠ .iirOvf) (hfatal : ∀ n, e ≠ .periodMismatch n) :
    LogsPlain s (s.emit e) := .inr ⟨e, hovf, hfatal, rfl⟩

/-- A boundary may report a late refill (R208). -/
theorem crossBoundary_logsPlain : LogsPlain s (crossBoundary s) := by
  rcases crossBoundary_cases s with h | ⟨fs, h⟩ <;> rw [h]
  · exact .inl rfl
  · exact emit_logsPlain _ nofun nofun

/-- The end of a measuring window reports the peak (R240). -/
theorem measureWindow_logsPlain : LogsPlain s (measureWindow s) := by
  rcases measureWindow_cases s with ⟨-, h⟩ | ⟨-, h⟩ <;> rw [h]
  · exact emit_logsPlain (s.setProc _) nofun nofun
  · exact .inl rfl

/-- The end of a timing window may warn (R252). -/
theorem loopTiming_logsPlain (dt : Duration) : LogsPlain s (loopTiming dt s) := by
  unfold loopTiming
  dsimp only
  split
  · split
    · exact emit_logsPlain s nofun nofun
    · exact .inl rfl
  · exact .inl rfl

/-- The overflow guard logs its event the first time it fires, and latches that it did (R153). -/
theorem iirGuard_log :
    ((iirGuard s).flt = s.flt ∧ (iirGuard s).iir.ovfLogged = s.iir.ovfLogged) ∨
    (s.iir.ovfLogged = false ∧ (iirGuard s).flt = s.flt.emit .iirOvf ∧
      (iirGuard s).iir.ovfLogged = true) := by
  unfold iirGuard
  split
  · split
    · exact .inl ⟨rfl, rfl⟩
    · exact .inr ⟨by simp_all, rfl, rfl⟩
  · exact .inl ⟨rfl, rfl⟩

end

/-! ### One more event -/

theorem faultOf_append (es : List Event) (e : Event) :
    faultOf (es ++ [e]) = faultOf es ||| e.faultBit := by
  simp [faultOf]

theorem ovfCount_append_iirOvf (es : List Event) : ovfCount (es ++ [.iirOvf]) = ovfCount es + 1 := by
  simp [ovfCount]

theorem ovfCount_append_of_ne {e : Event} (h : e ≠ .iirOvf) (es : List Event) :
    ovfCount (es ++ [e]) = ovfCount es := by
  simp [ovfCount, h]

/-! ### Sticky registers and log agree (O20) -/

section
variable {s t : State}

theorem StickyOk.of_eq (h : StickyOk s) (hflt : t.flt = s.flt := by simp)
    (hovf : t.iir.ovfLogged = s.iir.ovfLogged := by simp) : StickyOk t := by
  obtain ⟨_, _, _⟩ := h
  constructor <;> simpa only [hflt, hovf]

/-- An event that is neither `IIR_OVF` nor fatal sets its own `FAULT` bit only. -/
theorem StickyOk.emit (h : StickyOk s) {e : Event} (hovf : e ≠ .iirOvf)
    (hfatal : ∀ n, e ≠ .periodMismatch n) : StickyOk (s.emit e) where
  fault := by rw [State.emit_fault, State.emit_evt, faultOf_append, h.fault]
  halted := by simp [h.halted, fun n => (hfatal n).symm]
  overflow := by rw [State.emit_evt, ovfCount_append_of_ne hovf, State.emit_iir, h.overflow]

theorem StickyOk.of_logsPlain (h : StickyOk s) (hlog : LogsPlain s t)
    (hovf : t.iir.ovfLogged = s.iir.ovfLogged := by simp) : StickyOk t := by
  rcases hlog with hflt | ⟨e, he, hfatal, hflt⟩
  · exact h.of_eq hflt hovf
  · exact (h.emit he hfatal).of_eq hflt hovf

/-- The fatal event is logged and the block halts in one action (R286). -/
theorem StickyOk.mismatch (h : StickyOk s) (n : Nat) :
    StickyOk ((s.emit (.periodMismatch n)).halt) where
  fault := by rw [State.halt_fault, State.halt_evt, State.emit_fault, State.emit_evt, faultOf_append, h.fault]
  halted := by simp
  overflow := by
    have hne : Event.periodMismatch n ≠ .iirOvf := nofun
    rw [State.halt_evt, State.emit_evt, ovfCount_append_of_ne hne, State.halt_iir, State.emit_iir,
      h.overflow]

/-- `IIR_OVF` is logged at most once: the guard emits it only while it is not latched (R153, R278). -/
theorem StickyOk.iirGuard (h : StickyOk s) : StickyOk (iirGuard s) := by
  rcases iirGuard_log s with ⟨hflt, hovf⟩ | ⟨hnot, hflt, hovf⟩
  · exact h.of_eq hflt hovf
  · have hcount : ovfCount s.flt.evt = 0 := by rw [h.overflow, hnot]; rfl
    constructor <;> rw [hflt]
    case fault => exact (faultOf_append _ _).symm ▸ h.fault ▸ rfl
    case halted => simpa [FaultRegs.emit] using h.halted
    case overflow => rw [hovf, FaultRegs.emit, ovfCount_append_iirOvf, hcount]; rfl

theorem stickyOk_kept : Kept StickyOk := by
  constructor
  case toFillKept =>
    constructor
    case event => exact fun _ _ hovf hfatal h => h.emit hovf hfatal
    case claim => exact fun _ _ h => h.of_eq rfl rfl
    case write => exact fun s p slot _ h => h.of_eq (fillWrite_flt s p slot) (by simp [fillWrite])
    case publish => exact fun _ _ _ h => h.of_eq rfl rfl
    all_goals
      intros
      rename_i h
      exact h.of_eq
  case iirZero => exact fun _ h => h.of_eq rfl rfl
  case iirGuard => exact fun _ h => h.iirGuard
  case iirRun => exact fun _ _ h => h.of_eq rfl rfl
  case cross => exact fun s _ h => h.of_logsPlain (crossBoundary_logsPlain s)
  case window => exact fun s h => h.of_logsPlain (measureWindow_logsPlain s)
  case timing => exact fun s dt _ h => h.of_logsPlain (loopTiming_logsPlain s dt)
  all_goals
    intros
    rename_i h
    exact h.of_eq

end

/-- Settles O20: every event but `IIR_OVF` and the fatal one sets its bit alone; those two are logged
together with their latch. -/
theorem stickyKept : Obligations.StickyKept := fun _ _ h he =>
  step_keeps stickyOk_kept (fun _ n h => h.mismatch n)
    (fun _ _ => (StickyOk.resetOf _).of_eq rfl rfl) h he

/-! ### Only reset clears (O15)

The written state of each group as a relation between the group before and the group after; each is kept by
every update, so every step but reset keeps it. -/

/-- No event of the log is gone, no `FAULT` bit cleared, no halt left (R42). -/
structure FaultRegs.KeptIn (x y : FaultRegs) : Prop where
  evt : x.evt <+: y.evt
  fault : x.fault &&& y.fault = x.fault
  halted : x.halted = true → y.halted = true

theorem FaultRegs.KeptIn.refl (x : FaultRegs) : x.KeptIn x := ⟨List.prefix_rfl, BitVec.and_self, id⟩

theorem FaultRegs.KeptIn.emit {x y : FaultRegs} (h : x.KeptIn y) (e : Event) : x.KeptIn (y.emit e) where
  evt := h.evt.trans (List.prefix_append _ _)
  fault := by
    have habsorb : x.fault ||| x.fault &&& e.faultBit = x.fault := by
      ext i hi
      simpa using fun hx _ => hx
    rw [FaultRegs.emit, BitVec.and_or_distrib_left, h.fault, habsorb]
  halted := h.halted

/-- Every coefficient written in one record is written in the other (R29). -/
structure IirCoefs.WrittenIn (c d : IirCoefs) : Prop where
  a0 : c.a0.isSome = true → d.a0.isSome = true
  a1 : c.a1.isSome = true → d.a1.isSome = true
  a2 : c.a2.isSome = true → d.a2.isSome = true
  b0 : c.b0.isSome = true → d.b0.isSome = true
  b1 : c.b1.isSome = true → d.b1.isSome = true
  b2 : c.b2.isSome = true → d.b2.isSome = true

theorem IirCoefs.WrittenIn.refl (c : IirCoefs) : c.WrittenIn c := ⟨id, id, id, id, id, id⟩

/-- A load writes one coefficient and unwrites none (R157). -/
theorem IirCoefs.WrittenIn.load {c d : IirCoefs} (h : c.WrittenIn d) (v : Num) (cid : IirCoef) :
    c.WrittenIn (d.load v cid) := by
  cases cid with
  | a0 => exact { h with a0 := fun _ => rfl }
  | a1 => exact { h with a1 := fun _ => rfl }
  | a2 => exact { h with a2 := fun _ => rfl }
  | b0 => exact { h with b0 := fun _ => rfl }
  | b1 => exact { h with b1 := fun _ => rfl }
  | b2 => exact { h with b2 := fun _ => rfl }
  | a3 | a4 | b3 | b4 => exact h

/-- The section count, every coefficient and the overflow latch that one IIR unit has set, the other has
set. -/
structure IirRegs.KeptIn (x y : IirRegs) : Prop where
  ovfLogged : x.ovfLogged = true → y.ovfLogged = true
  coefs : ∀ (k : Nat) (c : IirCoefs), x.coefs[k]? = some c → ∃ d, y.coefs[k]? = some d ∧ c.WrittenIn d
  nsec : x.nsec.isSome = true → y.nsec.isSome = true

theorem IirRegs.KeptIn.refl (x : IirRegs) : x.KeptIn x :=
  ⟨id, fun _ c hc => ⟨c, hc, .refl c⟩, id⟩

theorem IirRegs.KeptIn.load {x y : IirRegs} (h : x.KeptIn y) (j : Nat) (v : Num) (cid : IirCoef) :
    x.KeptIn { y with coefs := y.coefs.modify j fun c => c.load v cid } where
  ovfLogged := h.ovfLogged
  coefs k c hc := by
    obtain ⟨d, hd, hcd⟩ := h.coefs k c hc
    simp only [List.getElem?_modify, hd]
    split
    · exact ⟨_, rfl, hcd.load v cid⟩
    · exact ⟨d, rfl, hcd⟩
  nsec := h.nsec

/-- The guard latches the overflow and writes the sections' registers only (R153). -/
theorem IirRegs.KeptIn.iirGuard {x : IirRegs} {s : State} (h : x.KeptIn s.iir) :
    x.KeptIn (iirGuard s).iir := by
  rcases iirGuard_cases s with hg | hg | hg <;> rw [hg]
  · exact h
  · exact { h with }
  · exact { h with ovfLogged := fun _ => rfl }

/-- Every parameter written in one store is written in the other; the others always are (R40). -/
structure ParRegs.WrittenIn (x y : ParRegs) : Prop where
  bps : x.bps.isSome = true → y.bps.isSome = true
  testToneFreq : x.testToneFreq.isSome = true → y.testToneFreq.isSome = true
  rampAmt : x.rampAmt.isSome = true → y.rampAmt.isSome = true
  oneValue : x.oneValue.isSome = true → y.oneValue.isSome = true
  zeroValue : x.zeroValue.isSome = true → y.zeroValue.isSome = true

theorem ParRegs.WrittenIn.refl (x : ParRegs) : x.WrittenIn x := ⟨id, id, id, id, id⟩

/-- A write of a register unwrites none (R262). -/
theorem ParRegs.WrittenIn.parWrite {x y z : ParRegs} (h : x.WrittenIn y) {v : Item} {r : ParReg}
    (hw : parWrite y v r = some z) : x.WrittenIn z := by
  cases r
  case bps =>
    obtain ⟨n, -, rfl⟩ := intIn_map_some hw
    exact { h with bps := fun _ => rfl }
  case testToneFreq =>
    simp only [Machine.parWrite] at hw
    split at hw <;> cases hw
    exact { h with testToneFreq := fun _ => rfl }
  case rampAmt => cases hw; exact { h with rampAmt := fun _ => rfl }
  case oneValue => cases hw; exact { h with oneValue := fun _ => rfl }
  case zeroValue => cases hw; exact { h with zeroValue := fun _ => rfl }
  case toneLevel => cases hw; exact { h with }
  case sampleRate | decimationRate | periodLen | xrunCount =>
    obtain ⟨n, -, rfl⟩ := intIn_map_some hw
    exact { h with }
  case hpfEn | bitLpfEn | telemEn | highSpeedEn | testPatternEn | testToneEn | toneMeasEn | rampEn
      | toneKind =>
    obtain ⟨b, -, rfl⟩ := Option.map_eq_some_iff.1 hw
    exact { h with }
  case samplesPerBit | readyIndex | peak | ltMax | ltMin | ltTotal | ltCount | curMode => cases hw

/-- Two coefficient arrays have the same size, and every cell written in one is written in the other
(R26). -/
structure CellsKeptIn (a b : List (Option Num)) : Prop where
  length : b.length = a.length
  written : ∀ (k : Nat) (v : Num), a[k]? = some (some v) → ∃ v', b[k]? = some (some v')

section
variable {a b : List (Option Num)}

theorem CellsKeptIn.refl (a : List (Option Num)) : CellsKeptIn a a := ⟨rfl, fun _ v hv => ⟨v, hv⟩⟩

/-- `FIR.LOADC` writes one cell (R135). -/
theorem CellsKeptIn.set (h : CellsKeptIn a b) (j : Nat) (w : Num) : CellsKeptIn a (b.set j (some w)) where
  length := List.length_set.trans h.length
  written k v hv := by
    obtain ⟨v', hv'⟩ := h.written k v hv
    obtain ⟨hk, -⟩ := List.getElem?_eq_some_iff.1 hv'
    by_cases hjk : j = k
    · subst hjk
      exact ⟨w, List.getElem?_set_self hk⟩
    · exact ⟨v', (List.getElem?_set_ne hjk).trans hv'⟩

/-- An array of numbers as long as the cells writes every one of them (R136). -/
theorem CellsKeptIn.fill {cs : List Num} (hcs : cs.length = a.length) : CellsKeptIn a (cs.map some) where
  length := (List.length_map _).trans hcs
  written k v hv := by
    obtain ⟨hk, -⟩ := List.getElem?_eq_some_iff.1 hv
    exact ⟨cs[k]'(hcs ▸ hk), by simp⟩

end

/-- The same configuration, and every filter's coefficients kept. -/
structure CoefKeptIn (s t : State) : Prop where
  cfg : t.cfg = s.cfg
  cells : ∀ f, CellsKeptIn (s.fir f).coef (t.fir f).coef

section
variable {s t u : State}

theorem CoefKeptIn.of_eq (h : CoefKeptIn s t) (hcfg : u.cfg = t.cfg := by simp)
    (hdec : u.firDec.coef = t.firDec.coef := by simp) (hint : u.firInt.coef = t.firInt.coef := by simp)
    (hbit : u.firBit.coef = t.firBit.coef := by simp) : CoefKeptIn s u where
  cfg := hcfg.trans h.cfg
  cells
    | .dec => hdec ▸ h.cells .dec
    | .int => hint ▸ h.cells .int
    | .bit => hbit ▸ h.cells .bit

/-- Writing a filter keeps the others, and itself when its cells are kept. -/
theorem CoefKeptIn.setFir (h : CoefKeptIn s t) {f : FirInst} {x : FirRegs}
    (hx : CellsKeptIn (s.fir f).coef x.coef) : CoefKeptIn s (t.setFir f x) where
  cfg := (State.setFir_cfg t f x).trans h.cfg
  cells g := by
    by_cases hg : g = f
    · subst hg
      rwa [State.fir_setFir_same]
    · rw [State.fir_setFir_other _ _ _ _ hg]
      exact h.cells g

theorem CoefKeptIn.modRestart (h : CoefKeptIn s t) (n : Nat) : CoefKeptIn s (modRestart n t) :=
  h.of_eq (modRestart_frame t n).1 rfl rfl rfl

end

section
variable (s : State)

theorem FaultRegs.keptIn_kept : Kept fun t => s.flt.KeptIn t.flt := by
  have plain : ∀ {t u}, LogsPlain t u → s.flt.KeptIn t.flt → s.flt.KeptIn u.flt := by
    rintro t u (hflt | ⟨e, -, -, hflt⟩) h <;> rw [hflt]
    · exact h
    · exact h.emit e
  constructor
  case toFillKept =>
    constructor
    case event => exact fun _ e _ _ h => h.emit e
    all_goals
      intros
      simpa
  case iirGuard =>
    intro t h
    rcases iirGuard_log t with ⟨hflt, -⟩ | ⟨-, hflt, -⟩ <;> rw [hflt]
    · exact h
    · exact h.emit _
  case cross => exact fun t _ => plain (crossBoundary_logsPlain t)
  case window => exact fun t => plain (measureWindow_logsPlain t)
  case timing => exact fun t dt _ => plain (loopTiming_logsPlain t dt)
  all_goals
    intros
    simpa

theorem IirRegs.keptIn_kept : Kept fun t => s.iir.KeptIn t.iir := by
  constructor
  case toFillKept => exact .of_cmdSide fun e h => e.iir ▸ h
  case iirZero => exact fun _ h => { h with }
  case iirGuard => exact fun _ h => h.iirGuard
  case iirRun => exact fun _ _ h => { h with }
  case iirLoad => exact fun _ j v cid h => h.load j v cid
  case iirSetn => exact fun _ _ _ _ h => { h with nsec := fun _ => rfl }
  all_goals
    intros
    simpa

theorem samplesPerBit_kept : Kept fun t => t.modu.samplesPerBit.isSome = true := by
  constructor
  case toFillKept => exact .of_cmdSide fun e h => e.modu ▸ h
  case modRestart => exact fun t n _ _ _ => by simp
  case modStart => exact fun _ _ h => h
  all_goals
    intros
    simpa

theorem ParRegs.writtenIn_kept : Kept fun t => s.par.WrittenIn t.par := by
  constructor
  case toFillKept => exact .of_cmdSide fun e h => e.par ▸ h
  case parSet => exact fun _ _ _ _ hw h => h.parWrite hw
  all_goals
    intros
    simpa

/-- A generator's array has the length of its filter (R26), so it unwrites no cell. -/
theorem CoefKeptIn.kept (hlen : ∀ f, (s.fir f).coef.length = s.cfg.firLen f) :
    Kept fun t => CoefKeptIn s t := by
  constructor
  case toFillKept =>
    exact .of_cmdSide fun e h => h.of_eq e.cfg (congrArg _ e.firDec) (congrArg _ e.firInt)
      (congrArg _ e.firBit)
  case firClear => exact fun _ f h => h.setFir (h.cells f)
  case firStep => exact fun _ f _ h => h.setFir (h.cells f)
  case firLoad => exact fun _ f j w h => h.setFir ((h.cells f).set j w)
  case firFill =>
    exact fun _ f _ hcs h => h.setFir (.fill (hcs.trans (by rw [h.cfg, hlen f])))
  case modRestart => exact fun _ n _ _ h => h.modRestart n
  all_goals
    intros
    rename_i h
    exact h.of_eq

end

/-- What every update of the machine keeps, and the fatal event, every step but reset keeps. -/
theorem step_keeps_unless_reset {P : State → Prop} (K : Kept P)
    (hm : ∀ s n, P s → P ((s.emit (.periodMismatch n)).halt)) {s t : State} (h : P s)
    (he : step s = .next t) (hr : ∀ rest, s.turns ≠ .reset :: rest) : P t :=
  step_keeps K hm (fun rest hrest => absurd hrest (hr rest)) h he

/-- Settles O15: every update writes cells and sets bits, and none takes one back. -/
theorem onlyResetClears : Obligations.OnlyResetClears := by
  intro s t he hr
  have hflt : s.flt.KeptIn t.flt := step_keeps_unless_reset (FaultRegs.keptIn_kept s)
    (fun _ n h => { h.emit (.periodMismatch n) with halted := fun _ => rfl }) (.refl _) he hr
  have hiir : s.iir.KeptIn t.iir :=
    step_keeps_unless_reset (IirRegs.keptIn_kept s) (fun _ _ h => h) (.refl _) he hr
  have hpar : s.par.WrittenIn t.par :=
    step_keeps_unless_reset (ParRegs.writtenIn_kept s) (fun _ _ h => h) (.refl _) he hr
  have hspb := fun h => step_keeps_unless_reset samplesPerBit_kept (fun _ _ h => h) h he hr
  have hcoef (hshape : ShapeOk s) : CoefKeptIn s t :=
    step_keeps_unless_reset (CoefKeptIn.kept s fun f => (hshape.fir f).1) (fun _ _ h => h.of_eq)
      ⟨rfl, fun _ => .refl _⟩ he hr
  refine ⟨hflt.evt, hflt.fault, hflt.halted, hiir.ovfLogged,
    fun hshape f => ((hcoef hshape).cells f).written, fun k c hc => ?_, hiir.nsec, hspb, hpar.bps, hpar.testToneFreq, hpar.rampAmt, hpar.oneValue,
    hpar.zeroValue⟩
  obtain ⟨d, hd, hcd⟩ := hiir.coefs k c hc
  exact ⟨d, hd, hcd.a0, hcd.a1, hcd.a2, hcd.b0, hcd.b1, hcd.b2⟩

/-! ## Legality in full (O6)

Each part of `legal` in the words of R104: the operand fields, the port, the halted state, the requested fill,
the DIN frame. -/

/-- The bounds R104 puts on the fields of a command. -/
def FieldsLegal (c : Config) : Instr → Prop
  | .firLoadc .dec k => k.toNat < c.lDec
  | .firLoadc .int k => k.toNat < c.lInt
  | .firLoadc .bit k => k.toNat < c.lBit
  | .iirLoadc sec _ => sec.toNat < c.iirMaxSections
  | .iirSetn n => 1 ≤ n.toNat ∧ n.toNat ≤ c.iirMaxSections
  | .rsRead k => k.toNat < c.parityLen
  | .parSet r => r.code.toNat < 32
  | _ => True

/-- The read-only registers are the ones from 32 up (R40). -/
theorem readOnly_eq_false_iff (r : ParReg) : r.readOnly = false ↔ r.code.toNat < 32 := by
  cases r <;> decide

theorem wellFormed_iff (c : Config) (i : Instr) : i.wellFormed c = true ↔ FieldsLegal c i := by
  cases i
  case firLoadc f k => cases f <;> exact decide_eq_true_iff
  case iirLoadc | rsRead => exact decide_eq_true_iff
  case iirSetn n => simp [Instr.wellFormed, FieldsLegal, Nat.one_le_iff_ne_zero]
  case parSet r => simpa [Instr.wellFormed, FieldsLegal] using readOnly_eq_false_iff r
  all_goals exact iff_of_true rfl trivial

/-- What the CMD port refuses, as a list of opcodes (R96). -/
theorem portAllows_cmd_iff (i : Instr) :
    portAllows .cmd i = true ↔
      (opOf (encode i)).toNat ∉ [0x30, 0x31, 0x32, 0x40, 0x41, 0x42, 0x50, 0x51, 0x55] := by
  cases i <;> simp [portAllows, encode]

/-- What the FILL port allows, as a list of opcodes (R96). -/
theorem portAllows_fill_iff (i : Instr) :
    portAllows .fill i = true ↔ (opOf (encode i)).toNat ∈
      [0x00, 0x30, 0x31, 0x32, 0x40, 0x41, 0x42, 0x50, 0x51, 0x52, 0x55, 0x82] := by
  cases i <;> simp [portAllows, encode]

/-- The port column of R96. -/
theorem portAllows_iff (p : Port) (i : Instr) :
    portAllows p i = true ↔
      (p = .cmd → (opOf (encode i)).toNat ∉ [0x30, 0x31, 0x32, 0x40, 0x41, 0x42, 0x50, 0x51, 0x55]) ∧
      (p = .fill → (opOf (encode i)).toNat ∈
        [0x00, 0x30, 0x31, 0x32, 0x40, 0x41, 0x42, 0x50, 0x51, 0x52, 0x55, 0x82]) := by
  cases p with
  | cmd => exact (portAllows_cmd_iff i).trans ⟨fun h => ⟨fun _ => h, nofun⟩, fun h => h.1 rfl⟩
  | fill => exact (portAllows_fill_iff i).trans ⟨fun h => ⟨nofun, fun _ => h⟩, fun h => h.2 rfl⟩

/-- What the halted state accepts, as a list of opcodes (R42, R281). -/
theorem haltAllows_iff (i : Instr) :
    haltAllows i = true ↔ (opOf (encode i)).toNat ∈ [0x00, 0x80, 0x82] := by
  cases i <;> simp [haltAllows, encode]

theorem fillAllows_iff (s : State) (i : Instr) :
    fillAllows s i = true ↔ (i = .frameFill → s.hand.fillState = .requested) := by
  cases i
  case frameFill => simp [fillAllows, State.fillRequested]
  all_goals exact iff_of_true rfl nofun

/-! ### Items and frames -/

section
variable {f : NumFormat} {x : Item}

theorem isNum_iff {q : Num} : isNum f q = true ↔ rnd f q = q := by
  cases f <;> simp [isNum, rnd]

theorem hasKind_num_iff : x.hasKind f .num = true ↔ ∃ q, x = .num q ∧ rnd f q = q := by
  cases x <;> simp [Item.hasKind, isNum_iff]

theorem hasKind_byte_iff : x.hasKind f .byte = true ↔ ∃ b, x = .byte b := by
  cases x <;> simp [Item.hasKind]

theorem hasKind_int_iff : x.hasKind f .int = true ↔ ∃ n, x = .int n ∧ n < 2 ^ 32 := by
  cases x <;> simp [Item.hasKind]

theorem hasKind_duration_iff : x.hasKind f .duration = true ↔ ∃ d, x = .duration d ∧ 0 ≤ d := by
  cases x <;> simp [Item.hasKind]

/-- The item of a writable register of the parameter store is a number or an int (R40). -/
theorem hasKind_parKind_iff {r : ParReg} (hr : r.readOnly = false) :
    x.hasKind f (parKind r) = true ↔
      if r.code.toNat ∈ [6, 12, 13, 14, 17] then ∃ q, x = .num q ∧ rnd f q = q
      else ∃ n, x = .int n ∧ n < 2 ^ 32 := by
  have hkind : parKind r = if r.code.toNat ∈ [6, 12, 13, 14, 17] then .num else .int := by
    revert hr
    cases r <;> decide
  rw [hkind]
  split
  · exact hasKind_num_iff
  · exact hasKind_int_iff

end

section
variable {f : NumFormat}

theorem kindsMatch_nil_iff {xs : List Item} : kindsMatch f [] xs = true ↔ xs = [] := by
  cases xs <;> simp [kindsMatch]

theorem kindsMatch_cons_iff {k : ItemKind} {ks : List ItemKind} {xs : List Item} :
    kindsMatch f (k :: ks) xs = true ↔
      ∃ x ys, xs = x :: ys ∧ x.hasKind f k = true ∧ kindsMatch f ks ys = true := by
  cases xs <;> simp [kindsMatch]

theorem kindsMatch_singleton_iff {k : ItemKind} {xs : List Item} :
    kindsMatch f [k] xs = true ↔ ∃ x, xs = [x] ∧ x.hasKind f k = true := by
  simp [kindsMatch_cons_iff, kindsMatch_nil_iff]

/-- A row of two parts is matched by a frame of two parts. -/
theorem kindsMatch_append_iff {ks ls : List ItemKind} : ∀ {xs : List Item},
    kindsMatch f (ks ++ ls) xs = true ↔
      ∃ ys zs, xs = ys ++ zs ∧ kindsMatch f ks ys = true ∧ kindsMatch f ls zs = true := by
  induction ks with
  | nil => simp [kindsMatch_nil_iff]
  | cons k ks ih =>
    intro xs
    simp only [List.cons_append, kindsMatch_cons_iff, ih]
    constructor
    · rintro ⟨x, -, rfl, hx, ys, zs, rfl, hys, hzs⟩
      exact ⟨x :: ys, zs, rfl, ⟨x, ys, rfl, hx, hys⟩, hzs⟩
    · rintro ⟨-, zs, rfl, ⟨x, ys, rfl, hx, hys⟩, hzs⟩
      exact ⟨x, ys ++ zs, rfl, hx, ys, zs, rfl, hys, hzs⟩

/-- A row of `n` items of one type. -/
theorem kindsMatch_replicate_iff {k : ItemKind} : ∀ {n : Nat} {xs : List Item},
    kindsMatch f (List.replicate n k) xs = true ↔ xs.length = n ∧ ∀ x ∈ xs, x.hasKind f k = true
  | 0, xs => by
    rw [List.replicate_zero, kindsMatch_nil_iff, List.length_eq_zero_iff]
    exact ⟨fun h => ⟨h, by simp [h]⟩, And.left⟩
  | n + 1, [] => by simp [List.replicate_succ, kindsMatch]
  | n + 1, x :: xs => by
    simp only [List.replicate_succ, kindsMatch, Bool.and_eq_true, kindsMatch_replicate_iff,
      List.length_cons, Nat.add_right_cancel_iff, List.forall_mem_cons]
    tauto

end

/-- The DIN column of R96: what the frame of a command holds. -/
def FrameLegal (c : Config) (din : List Item) : Instr → Prop
  | .firStep _ | .firLoadc _ _ | .iirStep | .iirLoadc _ _ =>
    ∃ x, din = [x] ∧ ∃ q, x = .num q ∧ rnd c.num q = q
  | .firGenrc _ _ | .firGenrrc _ _ =>
    ∃ x y z, din = [x, y, z] ∧ (∃ q, x = .num q ∧ rnd c.num q = q) ∧
      (∃ q, y = .num q ∧ rnd c.num q = q) ∧ ∃ q, z = .num q ∧ rnd c.num q = q
  | .frameEncode | .frameFill => din.length = c.dataLen ∧ ∀ x ∈ din, ∃ b, x = .byte b
  | .modInit =>
    ∃ x y, din = [x, y] ∧ (∃ n, x = .int n ∧ n < 2 ^ 32) ∧ ∃ n, y = .int n ∧ n < 2 ^ 32
  | .procPeriod n =>
    ∃ xs x, din = xs ++ [x] ∧ xs.length = n.toNat ∧
      (∀ y ∈ xs, ∃ q, y = .num q ∧ rnd c.num q = q) ∧ ∃ d, x = .duration d ∧ 0 ≤ d
  | .parSet r =>
    ∃ x, din = [x] ∧
      if r.code.toNat ∈ [6, 12, 13, 14, 17] then ∃ q, x = .num q ∧ rnd c.num q = q
      else ∃ n, x = .int n ∧ n < 2 ^ 32
  | _ => din = []

/-- A frame matches its row when it holds the row's items (R102); the row of a write of a read-only
register, which is illegal anyway, is left out. -/
theorem kindsMatch_rowDin_iff {c : Config} {i : Instr} (hw : i.wellFormed c = true) (din : List Item) :
    kindsMatch c.num (rowDin c i) din = true ↔ FrameLegal c din i := by
  cases i <;> simp only [rowDin, FrameLegal]
  case firStep | firLoadc | iirStep | iirLoadc => simp only [kindsMatch_singleton_iff, hasKind_num_iff]
  case firGenrc | firGenrrc =>
    simp only [kindsMatch_cons_iff, kindsMatch_nil_iff, hasKind_num_iff]
    constructor
    · rintro ⟨x, -, rfl, hx, y, -, rfl, hy, z, -, rfl, hz, rfl⟩
      exact ⟨x, y, z, rfl, hx, hy, hz⟩
    · rintro ⟨x, y, z, rfl, hx, hy, hz⟩
      exact ⟨x, _, rfl, hx, y, _, rfl, hy, z, _, rfl, hz, rfl⟩
  case modInit =>
    simp only [kindsMatch_cons_iff, kindsMatch_nil_iff, hasKind_int_iff]
    constructor
    · rintro ⟨x, -, rfl, hx, y, -, rfl, hy, rfl⟩
      exact ⟨x, y, rfl, hx, hy⟩
    · rintro ⟨x, y, rfl, hx, hy⟩
      exact ⟨x, _, rfl, hx, y, _, rfl, hy, rfl⟩
  case frameEncode | frameFill => simp only [kindsMatch_replicate_iff, hasKind_byte_iff]
  case procPeriod n =>
    simp only [kindsMatch_append_iff, kindsMatch_replicate_iff, kindsMatch_singleton_iff,
      hasKind_num_iff, hasKind_duration_iff]
    constructor
    · rintro ⟨xs, -, rfl, ⟨hlen, hxs⟩, x, rfl, hx⟩
      exact ⟨xs, x, rfl, hlen, hxs, hx⟩
    · rintro ⟨xs, x, rfl, hlen, hxs, hx⟩
      exact ⟨xs, [x], rfl, ⟨hlen, hxs⟩, x, rfl, hx⟩
  case parSet r =>
    have hr : r.readOnly = false := by simpa [Instr.wellFormed] using hw
    simp only [kindsMatch_singleton_iff, hasKind_parKind_iff hr]
  all_goals exact kindsMatch_nil_iff

/-- Every operation refuses an illegal command the same way (R104, R282). -/
theorem exec_of_illegal {i : Instr} {s : State} (h : legal s.port i s = false) :
    Refuses i s (.cmdIllegal (encode i)) := by
  cases i
  case frameFill => exact congrArg Host.Outcome.next (guarded_of_illegal h)
  all_goals exact congrArg Host.Outcome.next (accept_of_illegal h)

/-- Settles O6: the parts of legality, one by one. -/
theorem illegalRefused : Obligations.IllegalRefused := by
  intro i s op fields port running requested number int duration byte din frame
  have hfields : i.wellFormed s.cfg = true ↔ fields := wellFormed_iff s.cfg i
  have hport : portAllows s.port i = true ↔ port := portAllows_iff s.port i
  have hrunning : (s.flt.halted = false ∨ haltAllows i = true) ↔ running := by
    rw [haltAllows_iff, ← Bool.not_eq_true, ← imp_iff_not_or]
  have hrequested : fillAllows s i = true ↔ requested := fillAllows_iff s i
  have hframe (hw : i.wellFormed s.cfg = true) :
      kindsMatch s.cfg.num (rowDin s.cfg i) din = true ↔ frame := kindsMatch_rowDin_iff hw din
  have hlegal : legal s.port i s = true ↔ fields ∧ port ∧ running ∧ requested ∧ frame := by
    rw [legal_iff, ← hfields, ← hport, ← hrunning, ← hrequested]
    exact and_congr_right fun hw => and_congr_right fun _ => and_congr_right fun _ =>
      and_congr_right fun _ => hframe hw
  exact ⟨hlegal, fun hnot => exec_of_illegal (Bool.eq_false_iff.2 fun hl => hnot (hlegal.1 hl))⟩

/-! ## The moves of FILLER (O22) -/

theorem SameCmdSide.refl (s : State) : SameCmdSide s s :=
  ⟨rfl, rfl, rfl, rfl, rfl, rfl, rfl, rfl, rfl, rfl⟩

theorem SameCmdSide.trans {s t u : State} (h : SameCmdSide s t) (g : SameCmdSide t u) : SameCmdSide s u where
  cfg := g.cfg.trans h.cfg
  osc := g.osc.trans h.osc
  firDec := g.firDec.trans h.firDec
  firInt := g.firInt.trans h.firInt
  firBit := g.firBit.trans h.firBit
  iir := g.iir.trans h.iir
  iter := g.iter.trans h.iter
  modu := g.modu.trans h.modu
  proc := g.proc.trans h.proc
  par := g.par.trans h.par

/-- FILLER writes no register of the CMD side. -/
theorem sameCmdSide_fillKept (s : State) : FillKept (SameCmdSide s) := .of_cmdSide fun e h => h.trans e

/-! ### The handoff discipline -/

section
variable {s t : State}

theorem HandoffOk.of_eq (h : HandoffOk s) (hhand : t.hand = s.hand := by simp)
    (hjob : t.fillJob = s.fillJob := by simp) : HandoffOk t := by
  obtain ⟨_, _, _, _⟩ := h
  constructor <;> simpa only [hhand, hjob]

/-- The claim takes the slot that is not ready, of a handoff with the ready slot latched (R205). -/
theorem HandoffOk.fillClaim (h : HandoffOk s) (hreq : s.hand.fillState = .requested) :
    HandoffOk (fillClaim s) where
  filling := iff_of_true rfl rfl
  claimed slot hslot := by cases hslot; rfl
  written _ hslot := nomatch hslot
  latched _ := h.latched (by rw [hreq]; nofun)

/-- The slot a claim holds stays claimed through the write (R205). -/
theorem HandoffOk.fillWrite (h : HandoffOk s) {p : Port} {slot : Slot}
    (hjob : s.fillJob = some (.claimed slot)) : HandoffOk (fillWrite p slot s) where
  filling := iff_of_true (by simpa [Machine.fillWrite] using h.filling.2 (by rw [hjob]; rfl)) rfl
  claimed _ hslot := nomatch hslot
  written slot' hslot := by
    cases hslot
    simpa [Machine.fillWrite] using h.claimed slot hjob
  latched := by simpa [Machine.fillWrite] using h.latched

/-- After the publication no fill is in progress, and the handoff is idle (R205). -/
theorem HandoffOk.fillPublish (slot : Slot) : HandoffOk (fillPublish slot s) where
  filling := iff_of_false nofun nofun
  claimed _ hslot := nomatch hslot
  written _ hslot := nomatch hslot
  latched hidle := absurd rfl hidle

theorem handoffOk_fillKept : FillKept HandoffOk := by
  constructor
  case claim => exact fun _ hreq h => h.fillClaim hreq
  case write => exact fun _ _ _ hjob h => h.fillWrite hjob
  case publish => exact fun _ slot _ _ => .fillPublish slot
  all_goals
    intros
    rename_i h
    exact h.of_eq

/-- The slot a claim holds is not the one the iterator reads (R68). -/
theorem HandoffOk.claimed_ne_active (h : HandoffOk s) {slot : Slot}
    (hjob : s.fillJob = some (.claimed slot)) : slot ≠ s.hand.active := by
  have hfilling : s.hand.fillState = .filling := h.filling.2 (by rw [hjob]; rfl)
  rw [h.claimed slot hjob, h.latched (by rw [hfilling]; nofun)]
  exact Slot.other_ne _

end

/-! ### Isolation -/

/-- What FILLER leaves in the rest of the state (R69, R171, R295). The contents of the active slot need the
discipline of R68, which FILLER keeps. -/
structure FillIsolated (s t : State) : Prop where
  side : SameCmdSide s t
  port : t.port = s.port
  active : t.hand.active = s.hand.active
  halted : t.flt.halted = s.flt.halted
  slot : HandoffOk s → HandoffOk t ∧ t.hand.buf s.hand.active = s.hand.buf s.hand.active

section
variable {s t u : State}

theorem FillIsolated.refl (s : State) : FillIsolated s s :=
  ⟨.refl s, rfl, rfl, rfl, fun h => ⟨h, rfl⟩⟩

/-- A move that leaves `ACTIVE_INDEX`, `HALTED` and the contents of the active slot as they are. -/
theorem FillIsolated.move (h : FillIsolated s t) (hside : SameCmdSide t u)
    (hkeep : HandoffOk t → HandoffOk u) (hport : u.port = t.port := by simp)
    (hactive : u.hand.active = t.hand.active := by simp)
    (hhalted : u.flt.halted = t.flt.halted := by simp)
    (hbuf : HandoffOk t → u.hand.buf t.hand.active = t.hand.buf t.hand.active := by simp) :
    FillIsolated s u where
  side := h.side.trans hside
  port := hport.trans h.port
  active := hactive.trans h.active
  halted := hhalted.trans h.halted
  slot hs :=
    have ⟨hok, hslot⟩ := h.slot hs
    ⟨hkeep hok, (h.active ▸ hbuf hok).trans hslot⟩

/-- The write of a frame is the one update that touches a slot, and it is not the active one. -/
theorem fillIsolated_fillKept (s : State) : FillKept (FillIsolated s) := by
  constructor
  case claim =>
    exact fun t hreq h =>
      h.move (fillClaim_sameCmdSide t) (fun hok => hok.fillClaim hreq) rfl rfl rfl fun _ => rfl
  case write =>
    exact fun t p slot hjob h =>
      h.move (fillWrite_sameCmdSide p slot t) (fun hok => hok.fillWrite hjob) (by simp [fillWrite])
        (by simp [fillWrite]) (by simp) fun hok =>
          HandRegs.buf_setBuf_other t.hand slot t.hand.active _ (hok.claimed_ne_active hjob).symm
  case publish =>
    exact fun t slot _ h =>
      h.move (fillPublish_sameCmdSide slot t) (fun _ => .fillPublish slot) rfl rfl rfl fun _ => rfl
  all_goals
    intros
    rename_i h
    exact h.move (by constructor <;> simp) fun hok => hok.of_eq

theorem fillIsolated_fillMove (s : State) : FillIsolated s (fillMove s) :=
  (fillIsolated_fillKept s).fillMove (.refl s)

theorem fillIsolated_interleave (s : State) : FillIsolated s (interleave s) :=
  (fillIsolated_fillKept s).interleave (.refl s)

end

/-! ### The FILL port's own move -/

section
variable {s : State}

theorem runWord_of_error {p : Port} {w : Word} {e : DecodeError} (h : decode w = .error e) :
    runWord p w s = .next (refuse p (.cmdIllegal w) s) := by simp only [runWord, h]

theorem runWord_of_ok {p : Port} {w : Word} {i : Instr} (h : decode w = .ok i) :
    runWord p w s = exec i s := by simp only [runWord, h]

theorem fillCommand_of_error {w : Word} {e : DecodeError} (h : decode w = .error e) :
    fillCommand w s = refuse .fill (.cmdIllegal w) s := by simp only [fillCommand, h]

theorem fillCommand_of_ok {w : Word} {i : Instr} (h : decode w = .ok i) :
    fillCommand w s = fillExec i s := by simp only [fillCommand, h]

/-- FILLER and the FILL port go on with a `FRAME.FILL` in progress. -/
theorem fillMove_of_job {j : FillJob} (hjob : activeJob s = some j) : fillMove s = fillResume j s := by
  simp only [fillMove, hjob]

theorem fillPortMove_of_job {j : FillJob} (hjob : activeJob s = some j) :
    fillPortMove s = .next (fillResume j s) := by
  simp only [fillPortMove, hjob]

/-- With nothing delivered they do nothing. -/
theorem fillMove_of_nil (hjob : activeJob s = none) (hin : s.fill.inbox = []) : fillMove s = s := by
  simp only [fillMove, hjob, hin]

theorem fillPortMove_of_nil (hjob : activeJob s = none) (hin : s.fill.inbox = []) :
    fillPortMove s = .next s := by
  simp only [fillPortMove, hjob, portMove, State.io, hin]

/-- Otherwise they begin the next transaction. -/
theorem fillMove_of_cons {x : Txn} {rest : List Txn} (hjob : activeJob s = none)
    (hin : s.fill.inbox = x :: rest) :
    fillMove s = fillCommand x.word (s.setFill { s.fill with inbox := rest, din := x.frame }) := by
  simp only [fillMove, hjob, hin]

theorem fillPortMove_of_cons {x : Txn} {rest : List Txn} (hjob : activeJob s = none)
    (hin : s.fill.inbox = x :: rest) :
    fillPortMove s = runWord .fill x.word (s.deliver .fill x rest) := by
  simp only [fillPortMove, hjob, portMove, State.io, hin]

end

/-- Running a word on the FILL port is FILLER running it, but for the port noted as the current command's. -/
theorem runWord_fill (w : Word) (s : State) :
    runWord .fill w (s.setPort .fill) = .next ((fillCommand w s).setPort .fill) := by
  cases hw : decode w with
  | error e =>
    rw [runWord_of_error hw, fillCommand_of_error hw]
    rfl
  | ok i => rw [runWord_of_ok hw, fillCommand_of_ok hw, exec_fill i rfl, fillExec_setPort]

/-- A move of the FILL port is a move of FILLER, but for the port noted as the current command's. -/
theorem fillPortMove_eq {s t : State} (he : fillPortMove s = .next t) :
    ∃ p, t = (fillMove s).setPort p := by
  cases hjob : activeJob s with
  | some j =>
    rw [fillPortMove_of_job hjob] at he
    rw [fillMove_of_job hjob]
    injection he with he
    exact ⟨_, he.symm⟩
  | none =>
    cases hin : s.fill.inbox with
    | nil =>
      rw [fillPortMove_of_nil hjob hin] at he
      rw [fillMove_of_nil hjob hin]
      injection he with he
      exact ⟨_, he.symm⟩
    | cons x rest =>
      have hword := ((fillPortMove_of_cons hjob hin).symm.trans he).symm.trans
        (runWord_fill x.word (s.setFill { s.fill with inbox := rest, din := x.frame }))
      injection hword with hword
      rw [fillMove_of_cons hjob hin]
      exact ⟨.fill, hword⟩

/-- The move of the FILL port leaves the port as it was, once it is put back. -/
theorem setPort_fillPortMove {s t : State} (he : fillPortMove s = .next t) :
    t.setPort s.port = fillMove s := by
  obtain ⟨p, rfl⟩ := fillPortMove_eq he
  rw [← (fillIsolated_fillMove s).port]
  rfl

/-- With an entry of FILLER on the schedule, or with no schedule and no transaction on the CMD port, a step is
a move of the FILL port. -/
theorem step_of_fill_turn {s : State} {rest : List Turn} (h : s.turns = .fill :: rest) :
    step s = fillPortMove (s.setTurns rest) := by
  simp only [step, nextMove, h]

theorem step_of_no_turn {s : State} (hturns : s.turns = []) (hcmd : s.cmd.inbox = []) :
    step s = fillPortMove s := by
  simp only [step, nextMove, hturns, hcmd, if_true]

/-! ### The schedule at an interleaving point -/

/-- Popping a frame or refusing a command uses up no entry of the schedule. -/
theorem accept_turns {p : Port} {i : Instr} {s : State} {body : List Item → State → State}
    (hb : ∀ l s, (body l s).turns = s.turns) : (accept p i s body).turns <:+ s.turns := by
  unfold accept guarded
  split
  · rw [hb, State.clearDin_turns]
  · rw [refuse_turns]

theorem takeFillTurn_turns (s : State) : (takeFillTurn s).turns <:+ s.turns := by
  unfold takeFillTurn
  split
  · rename_i rest h
    rw [h]
    exact List.suffix_cons _ rest
  all_goals exact List.suffix_rfl

theorem fillFinish_turns (slot : Slot) (s : State) : (fillFinish slot s).turns <:+ s.turns := by
  unfold fillFinish
  split
  · exact List.suffix_rfl
  · exact takeFillTurn_turns s

theorem fillWrite_turns (p : Port) (slot : Slot) (s : State) : (fillWrite p slot s).turns = s.turns := by
  simp [fillWrite]

theorem fillContinue_turns (p : Port) (slot : Slot) (s : State) :
    (fillContinue p slot s).turns <:+ s.turns := by
  unfold fillContinue
  split
  · exact List.suffix_rfl
  · have hwrite := fillWrite_turns p slot (takeFillTurn s)
    exact (fillFinish_turns slot _).trans (hwrite ▸ takeFillTurn_turns s)

theorem fillResume_turns (j : FillJob) (s : State) : (fillResume j s).turns <:+ s.turns := by
  cases j with
  | claimed slot => exact fillWrite_turns .fill slot s ▸ fillFinish_turns slot _
  | written slot => exact List.suffix_rfl

theorem frameFillOn_turns (p : Port) (s : State) : (frameFillOn p s).turns <:+ s.turns := by
  unfold frameFillOn guarded
  split
  · exact fillContinue_turns p _ (fillClaim s)
  · rw [refuse_turns]

theorem fillExec_turns (i : Instr) (s : State) : (fillExec i s).turns <:+ s.turns := by
  cases i
  case frameFill => exact frameFillOn_turns .fill s
  case nop | rsClear | rsUpdate | rsRead | encReset | encByte | encSync | frameEncode | frameRdy | framePoll
      | faultGet =>
    exact accept_turns fun _ _ => rfl
  all_goals exact List.suffix_rfl

/-- A move of FILLER may use up entries of the schedule, and adds none. -/
theorem fillMove_turns (s : State) : (fillMove s).turns <:+ s.turns := by
  unfold fillMove
  split
  · exact fillResume_turns _ s
  · split
    · exact List.suffix_rfl
    · unfold fillCommand
      split
      · exact List.suffix_rfl
      · exact fillExec_turns _ _

section
variable {s : State} {rest : List Turn}

theorem fillTurns_succ_fill {n : Nat} (h : s.turns = .fill :: rest) :
    fillTurns (n + 1) s = fillTurns n (fillMove (s.setTurns rest)) := by
  simp only [fillTurns, h]

theorem fillTurns_succ_cmd {n : Nat} (h : s.turns = .cmd :: rest) :
    fillTurns (n + 1) s = s.setTurns rest := by
  simp only [fillTurns, h]

theorem fillTurns_of_stop (n : Nat) (h : s.turns = [] ∨ ∃ rest, s.turns = .reset :: rest) :
    fillTurns n s = s := by
  cases n with
  | zero => rfl
  | succ n => rcases h with h | ⟨rest, h⟩ <;> simp only [fillTurns, h]

end

/-- Any count of moves that covers the schedule gives the whole interleaving point. -/
theorem fillTurns_of_length_le : ∀ (n m : Nat) (s : State),
    s.turns.length ≤ n → s.turns.length ≤ m → fillTurns n s = fillTurns m s := by
  intro n
  induction n with
  | zero =>
    intro m s hn _
    have hnil : s.turns = [] := List.length_eq_zero_iff.1 (Nat.le_zero.1 hn)
    rw [fillTurns_of_stop 0 (.inl hnil), fillTurns_of_stop m (.inl hnil)]
  | succ n ih =>
    intro m s hn hm
    match hturns : s.turns, m with
    | [], m => rw [fillTurns_of_stop _ (.inl hturns), fillTurns_of_stop _ (.inl hturns)]
    | .reset :: rest, m =>
      rw [fillTurns_of_stop _ (.inr ⟨rest, hturns⟩), fillTurns_of_stop _ (.inr ⟨rest, hturns⟩)]
    | .cmd :: rest, m + 1 => rw [fillTurns_succ_cmd hturns, fillTurns_succ_cmd hturns]
    | .fill :: rest, m + 1 =>
      have hlen := (fillMove_turns (s.setTurns rest)).length_le
      rw [hturns, List.length_cons] at hn hm
      rw [fillTurns_succ_fill hturns, fillTurns_succ_fill hturns]
      exact ih m _ (hlen.trans (Nat.le_of_succ_le_succ hn)) (hlen.trans (Nat.le_of_succ_le_succ hm))
    | .cmd :: rest, 0 | .fill :: rest, 0 => simp [hturns] at hm

/-- A leading entry of FILLER is one move of FILLER, then the rest of the interleaving point (R69 (c)). -/
theorem interleave_of_fill_turn {s : State} {rest : List Turn} (h : s.turns = .fill :: rest) :
    interleave s = interleave (fillMove (s.setTurns rest)) := by
  have hlen := (fillMove_turns (s.setTurns rest)).length_le
  unfold interleave
  rw [h, List.length_cons, fillTurns_succ_fill h]
  exact fillTurns_of_length_le _ _ _ hlen le_rfl

/-- What isolation says, register group by register group. -/
theorem FillIsolated.groups {s t : State} (h : FillIsolated s t) (hcmd : t.cmd = s.cmd) :
    t.cfg = s.cfg ∧ t.cmd = s.cmd ∧ t.osc = s.osc ∧ t.firDec = s.firDec ∧ t.firInt = s.firInt ∧
      t.firBit = s.firBit ∧ t.iir = s.iir ∧ t.iter = s.iter ∧ t.modu = s.modu ∧ t.proc = s.proc ∧
      t.par = s.par ∧ t.hand.active = s.hand.active ∧ t.flt.halted = s.flt.halted ∧
      (HandoffOk s → t.hand.buf s.hand.active = s.hand.buf s.hand.active) := by
  obtain ⟨hside, -, hactive, hhalted, hslot⟩ := h
  obtain ⟨hcfg, hosc, hdec, hint, hbit, hiir, hiter, hmodu, hproc, hpar⟩ := hside
  exact ⟨hcfg, hcmd, hosc, hdec, hint, hbit, hiir, hiter, hmodu, hproc, hpar, hactive, hhalted,
    fun hs => (hslot hs).2⟩

/-- Settles O22: a move of the FILL port is a move of FILLER, and an interleaving point is a run of them. -/
theorem fillMovesAreIsolated : Obligations.FillMovesAreIsolated := by
  unfold Obligations.FillMovesAreIsolated
  intro isolated
  have hmove {s u t : State} (hu : FillIsolated s u) (hcmd : u.cmd = s.cmd)
      (he : fillPortMove u = .next t) : isolated s t := by
    obtain ⟨p, rfl⟩ := fillPortMove_eq he
    exact ((fillIsolated_fillKept s).fillMove hu).groups ((fillMove_cmd u).trans hcmd)
  refine ⟨fun s t rest hturns he => ?_, fun s t hturns hcmd he => ?_, fun s => ?_,
    fun s t rest hturns he => ?_, fun s rest hturns => ?_, fun s hstop => fillTurns_of_stop _ hstop⟩
  · rw [step_of_fill_turn hturns] at he
    exact hmove ((fillIsolated_fillKept s).turns s rest (.refl s)) rfl he
  · rw [step_of_no_turn hturns hcmd] at he
    exact hmove (.refl s) rfl he
  · exact ⟨(fillIsolated_interleave s).groups (interleave_cmd s), (fillIsolated_interleave s).port⟩
  · rw [step_of_fill_turn hturns] at he
    rw [interleave_of_fill_turn hturns, ← setPort_fillPortMove he]
    rfl
  · unfold interleave
    rw [hturns]
    exact fillTurns_succ_cmd hturns

/-! ## The parameter store (O25, O26, O27) -/

section
variable {s : State} {r : ParReg} {v : Item}

/-- `PAR.GET` on the CMD port is legal, halted or not (R42, R104). -/
theorem legal_parGet (hd : s.cmd.din = []) (r : ParReg) : legal .cmd (.parGet r) s = true :=
  legal_iff.2 ⟨rfl, rfl, .inr rfl, rfl, kindsMatch_nil_iff.2 hd⟩

/-- `PAR.GET` of a written register pushes what it reads as (R261). -/
theorem exec_parGet_of_some (hp : s.port = .cmd) (hd : s.cmd.din = []) (hv : parRead s r = some v) :
    exec (.parGet r) s = .next (s.push .cmd v) := by
  change Host.Outcome.next (parGetOn s.port r s) = _
  rw [hp, parGetOn, accept_of_legal (legal_parGet hd r), clearDin_of_empty (p := .cmd) hd]
  simp only [hv]

/-- `PAR.GET` of an unwritten register is refused with its number (R261, R283). -/
theorem exec_parGet_of_none (hp : s.port = .cmd) (hd : s.cmd.din = []) (hnone : parRead s r = none) :
    Refuses (.parGet r) s (.cfgInvalid r.code.toNat) := by
  change Host.Outcome.next (parGetOn s.port r s) = _
  rw [hp, parGetOn, accept_of_legal (legal_parGet hd r), clearDin_of_empty (p := .cmd) hd]
  simp only [hnone]

/-- `PAR.SET` of a writable register with an item of its type is legal (R104). -/
theorem legal_parSet (h : Issued .cmd [v] s) (hr : r.readOnly = false)
    (hv : v.hasKind s.cfg.num (parKind r) = true) : legal .cmd (.parSet r) s = true :=
  h.legal (by simp [Instr.wellFormed, hr]) rfl rfl (kindsMatch_singleton_iff.2 ⟨v, rfl, hv⟩)

/-- `PAR.SET` with a legal value writes the store (R262). -/
theorem exec_parSet_of_some (h : Issued .cmd [v] s) (hr : r.readOnly = false)
    (hv : v.hasKind s.cfg.num (parKind r) = true) {p : ParRegs} (hw : parWrite s.par v r = some p) :
    exec (.parSet r) s = .next ((s.clearDin .cmd).setPar p) := by
  change Host.Outcome.next (parSetOn s.port r s) = _
  rw [h.port, parSetOn, accept_of_legal (legal_parSet h hr hv), h.din]
  simp only [State.clearDin_par, operand, List.getD_cons_zero, hw]

/-- `PAR.SET` with any other value is refused with the register's number (R262, R283). -/
theorem exec_parSet_of_none (h : Issued .cmd [v] s) (hr : r.readOnly = false)
    (hv : v.hasKind s.cfg.num (parKind r) = true) (hw : parWrite s.par v r = none) :
    Refuses (.parSet r) s (.cfgInvalid r.code.toNat) := by
  change Host.Outcome.next (parSetOn s.port r s) = _
  rw [h.port, parSetOn, accept_of_legal (legal_parSet h hr hv), h.din]
  simp only [State.clearDin_par, refuse_clearDin, operand, List.getD_cons_zero, hw]

end

/-- Settles O25: each register's value, then `PAR.GET` of a written and of an unwritten one. -/
theorem parGetResult : Obligations.ParGetResult := by
  intro s r hp hd flag value
  have hread : parRead s r = value := by
    cases r
    case toneKind => simp only [parRead, value, flag]; cases s.par.toneKind <;> rfl
    case readyIndex => simp only [parRead, value]; cases s.hand.ready <;> rfl
    case ltMin => simp only [parRead, value]; cases s.proc.ltMin <;> rfl
    case curMode =>
      simp only [parRead, value, ProcRegs.curMode]
      cases s.proc.curKey with
      | none => rfl
      | some key => simp only [Option.map_some]; cases key.mode <;> rfl
    all_goals rfl
  exact ⟨hread, fun v hv => exec_parGet_of_some hp hd (hread.trans hv),
    fun hnone => exec_parGet_of_none hp hd (hread.trans hnone)⟩

/-- Settles O26: the frame is popped, and the store is written or the write refused. -/
theorem parSetResult : Obligations.ParSetResult := fun _ _ _ h hr hv =>
  ⟨fun _ hw => exec_parSet_of_some h hr hv hw, fun hw => exec_parSet_of_none h hr hv hw⟩

/-! ### Legal values and reading back -/

/-- A bool register's legal values are 0 and 1 (R40). -/
theorem isSome_boolOf_iff (v : Item) : (boolOf v).isSome = true ↔ v.intVal ≤ 1 := by
  unfold boolOf
  generalize v.intVal = n
  match n with
  | 0 | 1 => simp
  | n + 2 => simp

/-- A bool register reads as the int written (R40). -/
theorem boolItem_of_boolOf {n : Nat} {b : Bool} (h : boolOf (.int n) = some b) : boolItem b = .int n := by
  simp only [boolOf, Item.intVal] at h
  split at h <;> cases h <;> rfl

/-- An int register's range from 1 up to a power of two (R40). -/
theorem isSome_intIn_map_iff {α : Type} (k : Nat) (v : Item) (g : Nat → α) :
    ((intIn 1 (2 ^ k - 1) v).map g).isSome = true ↔ 1 ≤ v.intVal ∧ v.intVal < 2 ^ k := by
  have hlt : v.intVal ≤ 2 ^ k - 1 ↔ v.intVal < 2 ^ k := Nat.le_sub_one_iff_lt (Nat.two_pow_pos k)
  rw [Option.isSome_map, ← hlt]
  unfold intIn
  split
  · exact iff_of_true rfl ‹_›
  · exact iff_of_false nofun ‹_›

/-- An int register stores the int written. -/
theorem intIn_int {lo hi n m : Nat} (h : intIn lo hi (.int n) = some m) : m = n := by
  unfold intIn at h
  split at h <;> cases h
  rfl

/-- The legal values of a writable register, beside its type (R40). -/
def LegalValue (v : Item) : ParReg → Prop
  | .sampleRate | .bps => 1 ≤ v.intVal ∧ v.intVal < 2 ^ 32
  | .decimationRate => 1 ≤ v.intVal ∧ v.intVal < 2 ^ 16
  | .periodLen => 1 ≤ v.intVal ∧ v.intVal < 2 ^ 20
  | .testToneFreq => 0 ≤ v.numVal
  | .rampAmt | .oneValue | .zeroValue | .toneLevel | .xrunCount => True
  | _ => v.intVal ≤ 1

/-- A write succeeds exactly for the legal values (R262). -/
theorem isSome_parWrite_iff {f : NumFormat} {r : ParReg} {v : Item} (hr : r.readOnly = false)
    (hv : v.hasKind f (parKind r) = true) (x : ParRegs) :
    (parWrite x v r).isSome = true ↔ LegalValue v r := by
  cases r
  case sampleRate | bps => exact isSome_intIn_map_iff 32 v _
  case decimationRate => exact isSome_intIn_map_iff 16 v _
  case periodLen => exact isSome_intIn_map_iff 20 v _
  case testToneFreq =>
    simp only [parWrite, LegalValue]
    split <;> simp_all
  case rampAmt | oneValue | zeroValue | toneLevel => exact iff_of_true rfl trivial
  case xrunCount =>
    obtain ⟨n, rfl, hn⟩ := hasKind_int_iff.1 hv
    have hrange : intIn 0 (2 ^ 32 - 1) (.int n) = some n := if_pos ⟨Nat.zero_le n, Nat.le_pred_of_lt hn⟩
    exact iff_of_true (by rw [parWrite, hrange]; rfl) trivial
  case hpfEn | bitLpfEn | telemEn | highSpeedEn | testPatternEn | testToneEn | toneMeasEn | rampEn
      | toneKind =>
    exact Option.isSome_map.symm ▸ isSome_boolOf_iff v
  case samplesPerBit | readyIndex | peak | ltMax | ltMin | ltTotal | ltCount | curMode => cases hr

section
variable {s : State} {r : ParReg} {v : Item} {p : ParRegs}

/-- A register reads as the item written to it (R261, R262). -/
theorem parRead_parWrite_same {f : NumFormat} (hv : v.hasKind f (parKind r) = true)
    (hw : parWrite s.par v r = some p) : parRead (s.setPar p) r = some v := by
  cases r
  case hpfEn | bitLpfEn | telemEn | highSpeedEn | testPatternEn | testToneEn | toneMeasEn | rampEn =>
    obtain ⟨n, rfl, -⟩ := hasKind_int_iff.1 hv
    obtain ⟨b, hb, rfl⟩ := Option.map_eq_some_iff.1 hw
    exact congrArg some (boolItem_of_boolOf hb)
  case toneKind =>
    obtain ⟨n, rfl, -⟩ := hasKind_int_iff.1 hv
    obtain ⟨b, hb, rfl⟩ := Option.map_eq_some_iff.1 hw
    rw [← boolItem_of_boolOf hb]
    cases b <;> rfl
  case sampleRate | bps | decimationRate | periodLen | xrunCount =>
    obtain ⟨n, rfl, -⟩ := hasKind_int_iff.1 hv
    obtain ⟨m, hm, rfl⟩ := Option.map_eq_some_iff.1 hw
    rw [intIn_int hm]
    rfl
  case testToneFreq =>
    obtain ⟨q, rfl, -⟩ := hasKind_num_iff.1 hv
    simp only [parWrite] at hw
    split at hw <;> cases hw
    rfl
  case rampAmt | oneValue | zeroValue | toneLevel =>
    obtain ⟨q, rfl, -⟩ := hasKind_num_iff.1 hv
    cases hw
    rfl
  case samplesPerBit | readyIndex | peak | ltMax | ltMin | ltTotal | ltCount | curMode => cases hw

/-- Every other register reads as before (R262). -/
theorem parRead_parWrite_other (hw : parWrite s.par v r = some p) {r' : ParReg} (hne : r' ≠ r) :
    parRead (s.setPar p) r' = parRead s r' := by
  cases r
  case hpfEn | bitLpfEn | telemEn | highSpeedEn | testPatternEn | testToneEn | toneMeasEn | rampEn
      | toneKind | sampleRate | bps | decimationRate | periodLen | xrunCount =>
    obtain ⟨x, -, rfl⟩ := Option.map_eq_some_iff.1 hw
    cases r' <;> first | rfl | exact absurd rfl hne
  case testToneFreq =>
    simp only [parWrite] at hw
    split at hw <;> cases hw
    cases r' <;> first | rfl | exact absurd rfl hne
  case rampAmt | oneValue | zeroValue | toneLevel =>
    cases hw
    cases r' <;> first | rfl | exact absurd rfl hne
  case samplesPerBit | readyIndex | peak | ltMax | ltMin | ltTotal | ltCount | curMode => cases hw

end

/-- Settles O27: the register written, the others, and when the write succeeds. -/
theorem parSetReadsBack : Obligations.ParSetReadsBack := fun s _ _ hr hv =>
  ⟨fun _ hw => ⟨parRead_parWrite_same hv hw, fun _ hne => parRead_parWrite_other hw hne⟩,
    isSome_parWrite_iff hr hv s.par⟩

/-! ## The IIR loads (O39) -/

/-- `IIR.LOADC` on the CMD port (R157). -/
theorem exec_iirLoadc {s : State} {sec : BitVec 4} {cid : IirCoef} {v : Num}
    (h : Issued .cmd [.num v] s) (hv : isNum s.cfg.num v = true)
    (hsec : sec.toNat < s.cfg.iirMaxSections) :
    exec (.iirLoadc sec cid) s = .next (
      if iirCoefReserved cid && decide (v ≠ 0) then refuse .cmd (.cfgInvalid (0x120 + cid.code.toNat)) s
      else (s.clearDin .cmd).setIir
        { s.iir with coefs := s.iir.coefs.modify sec.toNat fun c => c.load v cid }) := by
  have hl : legal .cmd (.iirLoadc sec cid) s = true :=
    h.legal (decide_eq_true hsec) rfl rfl (kindsMatch_singleton_iff.2 ⟨_, rfl, hv⟩)
  change Host.Outcome.next (iirLoadcOn s.port sec cid s) = _
  rw [h.port, iirLoadcOn, accept_of_legal hl, h.din]
  simp only [State.clearDin_iir, refuse_clearDin, operand, List.getD_cons_zero, Item.numVal]

/-- `IIR.SETN` on the CMD port (R158). -/
theorem exec_iirSetn {s : State} {n : BitVec 20} (h : Issued .cmd [] s) (hpos : 1 ≤ n.toNat)
    (hmax : n.toNat ≤ s.cfg.iirMaxSections) :
    exec (.iirSetn n) s = .next (s.setIir { s.iir with nsec := some n.toNat }) := by
  have hl : legal .cmd (.iirSetn n) s = true :=
    h.legal ((wellFormed_iff _ _).2 ⟨hpos, hmax⟩) rfl rfl rfl
  change Host.Outcome.next (iirSetnOn s.port n s) = _
  rw [h.port, iirSetnOn, h.accept_empty hl]

/-- A load of a coefficient that is not reserved is not refused (R157). -/
theorem exec_iirLoadc_of_free {s : State} {sec : BitVec 4} {cid : IirCoef} {v : Num}
    (h : Issued .cmd [.num v] s) (hv : isNum s.cfg.num v = true)
    (hsec : sec.toNat < s.cfg.iirMaxSections) (hfree : iirCoefReserved cid = false) :
    exec (.iirLoadc sec cid) s = .next ((s.clearDin .cmd).setIir
      { s.iir with coefs := s.iir.coefs.modify sec.toNat fun c => c.load v cid }) := by
  rw [exec_iirLoadc h hv hsec, hfree]
  rfl

/-- A reserved coefficient takes 0 with no effect, and refuses every other value (R157). -/
theorem exec_iirLoadc_of_reserved {s : State} {sec : BitVec 4} {cid : IirCoef} {v : Num}
    (h : Issued .cmd [.num v] s) (hv : isNum s.cfg.num v = true)
    (hsec : sec.toNat < s.cfg.iirMaxSections) (hres : iirCoefReserved cid = true) :
    (v = 0 → exec (.iirLoadc sec cid) s = .next (s.clearDin .cmd)) ∧
    (v ≠ 0 → Refuses (.iirLoadc sec cid) s (.cfgInvalid (0x120 + cid.code.toNat))) := by
  have hload : (fun c : IirCoefs => c.load v cid) = id := by
    funext c
    cases cid <;> first | rfl | cases hres
  refine ⟨fun h0 => ?_, fun hne => ?_⟩
  · rw [exec_iirLoadc h hv hsec, hload, List.modify_id, if_neg (by simp [h0])]
    rfl
  · unfold Refuses
    rw [exec_iirLoadc h hv hsec, hres, if_pos (by simp [hne]), h.port]

/-- Settles O39: the six loads, the four reserved coefficients, the section count. -/
theorem iirLoads : Obligations.IirLoads := by
  refine ⟨fun s sec cid v h hv hsec => ?_, fun s n h => exec_iirSetn h⟩
  cases cid
  case a3 | a4 | b3 | b4 => exact exec_iirLoadc_of_reserved h hv hsec rfl
  all_goals exact exec_iirLoadc_of_free h hv hsec rfl

/-! ## Reset (O10, O11) -/

/-- Every history is zero after reset (R27). -/
theorem resetOf_hist (c : Config) (f : FirInst) :
    ((State.resetOf c).fir f).hist = List.replicate (c.firLen f) 0 := by
  cases f <;> rfl

/-- Settles O10: the histories apart, value by value. -/
theorem resetValues : Obligations.ResetValues := by
  intro c s
  refine ⟨?_, ?_, ?_, resetOf_hist c, ?_⟩
  all_goals and_intros
  all_goals rfl

/-- Settles O11: the schedule's reset entry is the cold reset (R310). -/
theorem resetStep : Obligations.ResetStep := by
  intro s rest hturns
  have hstep : step s = .next (coldReset (s.setTurns rest)) := by simp only [step, nextMove, hturns]
  exact hstep

end Sys2Proof.Machine
end

section
/-! The statements of spec 20_memory.md: slot exclusion (O17), the step of a delivered word (O12), the
operations that only read (O28), `FRAME.FILL` step by step (O47), the bit iterator (O49), a whole frame on the
line (O50) and what the CMD port leaves of FILLER (O23). As in the tests, `Elab.async` is off so that no
elaboration task holds a thread of its own. -/

namespace Sys2Proof.Machine

set_option Elab.async false

/-! ## Slot exclusion (O17) -/

section
variable {s t : State}

/-- The latch takes the ready slot as the active one, or leaves the handoff alone (R208, R209). -/
theorem HandRegs.latch_cases (h : HandRegs) :
    (h.fillState = .idle ∧ h.latch = { h with active := h.ready, fillState := .requested }) ∨
    (h.fillState ≠ .idle ∧ h.latch = h) := by
  unfold HandRegs.latch
  split <;> simp_all

theorem HandoffOk.latch (h : HandoffOk s) : HandoffOk (s.setHand s.hand.latch) := by
  obtain ⟨hidle, hlatch⟩ | ⟨-, hlatch⟩ := s.hand.latch_cases
  · rw [hlatch]
    have hfree : s.fillJob.isSome ≠ true := fun hjob => by
      have := h.filling.2 hjob
      rw [hidle] at this
      cases this
    exact {
      filling := iff_of_false nofun hfree
      claimed := h.claimed
      written := h.written
      latched := fun _ => rfl }
  · rw [hlatch]
    exact h

/-- A frame boundary latches the ready slot, or leaves the handoff alone (R208). -/
theorem HandoffOk.crossBoundary (h : HandoffOk s) : HandoffOk (crossBoundary s) := by
  obtain hcross | ⟨fs, hcross⟩ := crossBoundary_cases s
  · exact hcross ▸ h.latch.of_eq rfl rfl
  · exact hcross ▸ h.of_eq

/-- Of the CMD side's updates, `FRAME.REQ` and the frame boundary alone reach the handoff. -/
theorem handoffOk_kept : Kept HandoffOk := by
  constructor
  case toFillKept => exact handoffOk_fillKept
  case latch => exact fun _ h => h.latch
  case cross => exact fun _ _ h => h.crossBoundary
  case firStep => exact fun _ _ _ h => h.of_eq (by simp) (by simp [firStep_eq])
  case firClear => exact fun _ _ h => h.of_eq (by simp) (by simp [firClear])
  case firLoad => exact fun _ _ _ _ h => h.of_eq
  case firFill => exact fun _ _ _ _ h => h.of_eq
  case iirGuard =>
    intro u h
    rcases iirGuard_cases u with hu | hu | hu <;> rw [hu] <;> exact h.of_eq
  case window =>
    intro u h
    rcases measureWindow_cases u with ⟨-, hu⟩ | ⟨-, hu⟩ <;> rw [hu] <;> exact h.of_eq
  case timing =>
    intro u dt _ h
    refine h.of_eq (by simp) ?_
    unfold loopTiming
    dsimp only
    split
    · split <;> rfl
    · rfl
  all_goals
    intros
    rename_i h
    exact h.of_eq rfl rfl

theorem HandoffOk.step (h : HandoffOk s) (he : step s = .next t) : HandoffOk t :=
  step_keeps handoffOk_kept (fun _ _ h => h.of_eq)
    (fun _ _ => (HandoffOk.resetOf s.cfg).of_eq rfl rfl) h he

/-- While a slot is being filled the ready slot is the active one, and it is the other one (R68). -/
theorem HandoffOk.exclusion (h : HandoffOk s) {slot : Slot}
    (hjob : s.fillJob = some (.claimed slot) ∨ s.fillJob = some (.written slot)) :
    s.hand.active = s.hand.ready ∧ slot = s.hand.ready.other ∧ slot ≠ s.hand.active := by
  have hfilling : s.hand.fillState = .filling :=
    h.filling.2 (by rcases hjob with hjob | hjob <;> rw [hjob] <;> rfl)
  have hactive : s.hand.active = s.hand.ready := h.latched (by rw [hfilling]; nofun)
  have hslot : slot = s.hand.ready.other := hjob.elim (h.claimed slot) (h.written slot)
  exact ⟨hactive, hslot, by rw [hslot, hactive]; exact Slot.other_ne _⟩

end

/-- Settles O17: the discipline at reset, at every step, and what it says of a slot being filled. -/
theorem slotExclusion : Obligations.SlotExclusion :=
  ⟨HandoffOk.resetOf, fun _ _ h he => h.step he, fun _ _ h hjob => h.exclusion hjob⟩

/-! ## The step of a delivered word (O12) -/

section
variable {s : State}

/-- With an entry of the CMD port on the schedule, or with no schedule and a transaction on the CMD port, a
step is a move of the CMD port. -/
theorem step_of_cmd_turn {rest : List Turn} (h : s.turns = .cmd :: rest) :
    step s = portMove .cmd (s.setTurns rest) := by
  simp only [step, nextMove, h]

theorem step_of_cmd_inbox {x : Txn} {more : List Txn} (hturns : s.turns = [])
    (hin : s.cmd.inbox = x :: more) : step s = portMove .cmd s := by
  simp only [step, nextMove, hturns, hin, reduceCtorEq, if_false]

/-- A port begins the operation its next word decodes to (R90, R102). -/
theorem portMove_of_ok {p : Port} {x : Txn} {more : List Txn} {i : Instr}
    (hin : (s.io p).inbox = x :: more) (hw : decode x.word = .ok i) :
    portMove p s = exec i (s.deliver p x more) := by
  simp only [portMove, hin, runWord_of_ok hw]

/-- The FILL port goes on with no operation when none is in progress, or the block is halted (log entry 10). -/
theorem activeJob_none (h : s.fillJob = none ∨ s.flt.halted = true) : activeJob s = none := by
  rcases h with h | h <;> simp [activeJob, h]

theorem fillPortMove_of_ok {x : Txn} {more : List Txn} {i : Instr}
    (hfree : s.fillJob = none ∨ s.flt.halted = true) (hin : s.fill.inbox = x :: more)
    (hw : decode x.word = .ok i) : fillPortMove s = exec i (s.deliver .fill x more) := by
  rw [fillPortMove_of_cons (activeJob_none hfree) hin, runWord_of_ok hw]

end

/-- Settles O12: which port moves, and the operation it begins. -/
theorem stepRunsCommand : Obligations.StepRunsCommand := by
  intro s x more rest i hw free
  refine ⟨fun hturns hin => ?_, fun hturns hfree hin => ?_, fun hturns hin => ?_,
    fun hturns hcmd hfree hin => ?_⟩
  · exact (step_of_cmd_turn hturns).trans (portMove_of_ok (p := .cmd) hin hw)
  · exact (step_of_fill_turn hturns).trans (fillPortMove_of_ok hfree hin hw)
  · exact (step_of_cmd_inbox hturns hin).trans (portMove_of_ok (p := .cmd) hin hw)
  · exact (step_of_no_turn hturns hcmd).trans (fillPortMove_of_ok hfree hin hw)

/-! ## The operations that only read (O28) -/

section
variable {s : State} {p : Port}

/-- `FAULT.GET` pushes `FAULT` on either port, halted or not (R42, R264). -/
theorem exec_faultGet (hp : s.port = p) (hd : (s.io p).din = []) :
    exec .faultGet s = .next (s.push p (.int s.flt.fault.toNat)) := by
  have hl : legal p .faultGet s = true :=
    legal_iff.2 ⟨rfl, by cases p <;> rfl, .inr rfl, rfl, kindsMatch_nil_iff.2 hd⟩
  change Host.Outcome.next (faultGetOn s.port s) = _
  rw [hp, faultGetOn, accept_of_legal hl, clearDin_of_empty hd]

/-- `FRAME.RDY` pushes `READY_INDEX` on either port (R206). -/
theorem exec_frameRdy (h : Issued p [] s) :
    exec .frameRdy s = .next (s.push p (.bit s.hand.ready.toBit)) := by
  change Host.Outcome.next (frameRdyOn s.port s) = _
  rw [h.port, frameRdyOn, h.accept_empty (h.legal rfl (by cases p <;> rfl) rfl rfl)]

/-- `FRAME.POLL` pushes the "fill requested" flag (R210). -/
theorem exec_framePoll (h : Issued .fill [] s) :
    exec .framePoll s = .next (s.push .fill (.bit s.fillRequested)) := by
  change Host.Outcome.next (framePollOn s.port s) = _
  rw [h.port, framePollOn, h.accept_empty (h.legal rfl rfl rfl rfl)]

/-- `RS.READ` pushes an entry of `PARITY` (R169). -/
theorem exec_rsRead (h : Issued .fill [] s) {k : BitVec 5} (hk : k.toNat < s.cfg.parityLen) :
    exec (.rsRead k) s = .next (s.push .fill (.byte (s.enc.parity.getD k.toNat 0))) := by
  have hl : legal .fill (.rsRead k) s = true := h.legal (decide_eq_true hk) rfl rfl rfl
  change Host.Outcome.next (rsReadOn s.port k s) = _
  rw [h.port, rsReadOn, h.accept_empty hl]

end

theorem Slot.toBit_eq (slot : Slot) : slot.toBit = decide (slot = .one) := by cases slot <;> rfl

/-- Settles O28: one push for each of the four. -/
theorem pureReads : Obligations.PureReads :=
  ⟨fun _ _ hp hd => exec_faultGet hp hd,
    fun s _ h => by rw [← Slot.toBit_eq s.hand.ready]; exact exec_frameRdy h,
    fun _ h => exec_framePoll h, fun _ _ h hk => exec_rsRead h hk⟩

/-! ## FRAME.FILL step by step (O47) -/

section
variable {s : State} {payload : List Byte} {slot : Slot} {rest : List Turn}

/-- A requested fill with a payload of the right size is legal (R104, R205). -/
theorem legal_frameFill (h : Issued .fill (payload.map .byte) s) (hlen : payload.length = s.cfg.dataLen)
    (hreq : s.hand.fillState = .requested) : legal .fill .frameFill s = true :=
  h.legal rfl rfl (decide_eq_true hreq)
    (by rw [rowDin, ← hlen]; exact kindsMatch_bytes s.cfg.num payload)

/-- With an entry of the CMD port next, `FRAME.FILL` waits after its claim (R69 (b)). -/
theorem fillContinue_of_cmd_turn (p : Port) (h : s.turns = .cmd :: rest) : fillContinue p slot s = s :=
  if_pos (by simp only [fillYields, h])

/-- As `fillContinue_of_cmd_turn`, after its write. -/
theorem fillFinish_of_cmd_turn (h : s.turns = .cmd :: rest) : fillFinish slot s = s :=
  if_pos (by simp only [fillYields, h])

/-- The claim, the schedule giving the next move to the CMD port (R205). -/
theorem exec_frameFill_of_cmd_turn (hl : legal .fill .frameFill s = true) (hp : s.port = .fill)
    (hturns : s.turns = .cmd :: rest) : exec .frameFill s = .next (fillClaim s) := by
  change Host.Outcome.next (frameFillOn s.port s) = _
  rw [hp, frameFillOn, guarded_of_legal hl, fillContinue_of_cmd_turn (s := fillClaim s) _ hturns]

/-- The write puts the frame of the payload into the slot (R205). -/
theorem fillWrite_eq (hdin : s.fill.din = payload.map .byte) (hlen : payload.length = s.cfg.dataLen)
    (hwf : s.cfg.wf = true) :
    fillWrite .fill slot s = { s with
      fill := { s.fill with din := [] }
      enc := (encodeFrame s.cfg s.enc.rd payload).2
      hand := s.hand.setBuf slot (encodeFrame s.cfg s.enc.rd payload).1
      fillJob := some (.written slot) } := by
  obtain ⟨-, -, -, hpos, hgen, -⟩ := sizes_of_wf hwf
  have hwords := slotWords_eq (encodeFrame_length (rd := s.enc.rd) hlen hpos (by omega))
  have hitems : (s.io .fill).din.map Item.byteVal = payload := by
    rw [← byteVal_map payload, ← hdin]
    rfl
  unfold fillWrite
  rw [hitems]
  dsimp only
  rw [hwords]
  rfl

/-- While the block is not halted the next move of the FILL port goes on with the fill (R69 (b)). -/
theorem step_of_fillJob {j : FillJob} (hjob : s.fillJob = some j) (hrun : s.flt.halted = false)
    (hturns : s.turns = .fill :: rest) : step s = .next (fillResume j (s.setTurns rest)) := by
  rw [step_of_fill_turn hturns]
  exact fillPortMove_of_job (by simp [activeJob, hrun, hjob])

end

/-- Settles O47: the claim, the write and the publication, one move each. -/
theorem frameFillSteps : Obligations.FrameFillSteps := by
  refine ⟨fun s payload rest h hlen hreq hturns => ?_,
    fun s payload slot rest hjob hdin hlen hwf hrun hturns => ?_, fun s slot rest hjob hrun hturns => ?_⟩
  · exact exec_frameFill_of_cmd_turn (legal_frameFill h hlen hreq) h.port hturns
  · rw [step_of_fillJob hjob hrun hturns, fillResume,
      fillWrite_eq (s := s.setTurns (.cmd :: rest)) hdin hlen hwf, fillFinish_of_cmd_turn (rest := rest) rfl]
    rfl
  · rw [step_of_fillJob hjob hrun hturns]
    rfl

/-! ## The bit iterator (O49) -/

section
variable {s : State}

/-- With an empty schedule FILLER does not move inside a CMD operation. -/
theorem interleave_of_no_turns (h : s.turns = []) : interleave s = s := fillTurns_of_stop _ (.inl h)

@[simp] theorem crossBoundary_turns (s : State) : (crossBoundary s).turns = s.turns := by
  rcases crossBoundary_cases s with h | ⟨fs, h⟩ <;> simp [h]

theorem atBoundary_iff :
    atBoundary s = true ↔ s.iter.firstPacket = true ∨ s.iter.wordsSent + 1 = s.cfg.frameLen := by
  simp [atBoundary]

/-- Away from a frame boundary FILLER cannot move (R69 (c)). -/
theorem nextBit_of_not_boundary (il : State → State)
    (h : ¬ (s.iter.bitsSent = 10 ∧ atBoundary s = true)) : nextBit il s = nextBit id s := by
  by_cases hend : s.iter.bitsSent = 10
  · have hword : atBoundary s = false := by simpa [hend] using h
    simp [nextBit, iterAdvance, hword]
  · rw [nextBit_inside hend, nextBit_inside hend]

/-- At a frame boundary the interleaving points stand immediately before and after the handoff access
(R69 (c), R207). -/
theorem nextBit_of_boundary {il : State → State} (hil : ∀ s, (il s).iter = s.iter)
    (hend : s.iter.bitsSent = 10) (hb : atBoundary s = true) :
    nextBit il s = nextBit id (il (crossBoundary (il s))) := by
  have hstart : (il (crossBoundary (il s))).iter.bitsSent ≠ 10 := by simp [hil]
  rw [nextBit_inside hstart]
  simp [nextBit, iterAdvance, hend, hb]

/-- A boundary with nothing between. -/
theorem nextBit_id_of_boundary (hend : s.iter.bitsSent = 10) (hb : atBoundary s = true) :
    nextBit id s = nextBit id (crossBoundary s) := nextBit_of_boundary (fun _ => rfl) hend hb

/-- With an empty schedule `next_bit` inside a CMD operation is `next_bit` with nothing between. -/
theorem nextBit_of_no_turns (h : s.turns = []) : nextBit interleave s = nextBit id s := by
  by_cases hb : s.iter.bitsSent = 10 ∧ atBoundary s = true
  · obtain ⟨hend, hb⟩ := hb
    have hcross : interleave (crossBoundary s) = crossBoundary s :=
      interleave_of_no_turns ((crossBoundary_turns s).trans h)
    rw [nextBit_of_boundary interleave_iter hend hb, nextBit_id_of_boundary hend hb,
      interleave_of_no_turns h, hcross]
  · exact nextBit_of_not_boundary _ hb

/-- A boundary in IDLE latches the published slot and requests the next fill (R208). -/
theorem crossBoundary_of_idle (h : s.hand.fillState = .idle) :
    crossBoundary s = { s with
      iter := { firstPacket := false, bitsSent := 0, wordsSent := 0 }
      hand := { s.hand with active := s.hand.ready, fillState := .requested } } := by
  simp only [crossBoundary, frameBoundary, State.setIter, h, HandRegs.latch]
  rfl

/-- A boundary with no published slot reports `REFILL_LATE` (R208, R280). -/
theorem crossBoundary_of_late (h : s.hand.fillState ≠ .idle) :
    crossBoundary s = { s with
      iter := { firstPacket := false, bitsSent := 0, wordsSent := 0 }
      flt := { s.flt with
        evt := s.flt.evt ++ [.refillLate s.hand.fillState]
        fault := s.flt.fault ||| 0x04 } } := by
  cases hfs : s.hand.fillState with
  | idle => exact absurd hfs h
  | requested | filling =>
    simp only [crossBoundary, frameBoundary, State.setIter, hfs]
    rfl

/-- The word the iterator is in has its ten bits unmasked (R207). -/
theorem iterWord_eq (s : State) :
    iterWord s =
      if s.iter.firstPacket then 0x0FA else (s.hand.buf s.hand.active).getD s.iter.wordsSent 0 := by
  have hmask : ∀ w : Word10, w &&& 0x3FF = w := fun w => BitVec.and_allOnes
  unfold iterWord
  rw [hmask]
  rfl

/-- A bit of the active slot (R207). -/
theorem nextBit_in_frame {il : State → State} {b k : Nat}
    (h : s.iter = { firstPacket := false, bitsSent := b, wordsSent := k }) (hb : b ≠ 10) :
    nextBit il s =
      (((s.hand.buf s.hand.active).getD k 0).getLsbD (9 - b),
        s.setIter { firstPacket := false, bitsSent := b + 1, wordsSent := k }) := by
  rw [nextBit_inside (by rw [h]; exact hb), iterWord_eq, h]
  rfl

/-- `FRAME.NEXTBIT` on the CMD port pushes what `next_bit` returns (R207). -/
theorem exec_frameNextbit (h : Issued .cmd [] s) {b : Bool} {t : State} (hbit : nextBit id s = (b, t)) :
    exec .frameNextbit s = .next (t.push .cmd (.bit b)) := by
  change Host.Outcome.next (frameNextbitOn s.port s) = _
  rw [h.port, frameNextbitOn, h.accept_empty (h.legal rfl rfl rfl rfl), hbit]

end

/-- Settles O49: the interleaving points of `next_bit`, then its bit in each of the four cases. -/
theorem frameNextbitResult : Obligations.FrameNextbitResult := by
  refine ⟨fun s h => nextBit_of_no_turns h, ?_, ?_⟩
  · intro s ends iter a
    have hends : ends ↔ s.iter.bitsSent = 10 ∧ atBoundary s = true := and_congr_right' atBoundary_iff.symm
    have hcross (he : ends) : nextBit interleave s = nextBit id (interleave (crossBoundary a)) :=
      nextBit_of_boundary interleave_iter (hends.1 he).1 (hends.1 he).2
    exact ⟨fun hnot => nextBit_of_not_boundary _ (hends.not.1 hnot),
      fun he hidle => crossBoundary_of_idle hidle ▸ hcross he,
      fun he hlate => crossBoundary_of_late hlate ▸ hcross he⟩
  · intro s h _ word sends
    have hsends {b : Bool} {t : State} (hcmd : t.cmd = s.cmd) (hbit : nextBit id s = (b, t)) :
        sends b t := by
      refine ⟨hbit, ?_⟩
      rw [exec_frameNextbit h hbit, ← hcmd]
      rfl
    refine ⟨fun hlt => ?_, fun hend hfirst hword => ?_, fun hend hb => ⟨fun hidle => ?_, fun hlate => ?_⟩⟩
    · refine hsends rfl ?_
      rw [nextBit_inside hlt.ne, iterWord_eq]
      rfl
    · have hinside : atBoundary s = false := by simp [atBoundary, hfirst, hword.ne]
      exact hsends rfl ((nextBit_nextWord hend hinside).trans
        (nextBit_in_frame (b := 0) (by simp [hfirst]) (by decide)))
    · refine hsends rfl ?_
      rw [nextBit_id_of_boundary hend (atBoundary_iff.2 hb), crossBoundary_of_idle hidle]
      exact nextBit_in_frame (b := 0) (k := 0) rfl (by decide)
    · refine hsends rfl ?_
      rw [nextBit_id_of_boundary hend (atBoundary_iff.2 hb), crossBoundary_of_late hlate]
      exact nextBit_in_frame (b := 0) (k := 0) rfl (by decide)

/-! ## A frame on the line (O50) -/

section
variable {s : State}

/-- Calls of `next_bit` one after another. -/
theorem takeBits_add : ∀ (m n : Nat) (s : State),
    takeBits (m + n) s =
      ((takeBits m s).1 ++ (takeBits n (takeBits m s).2).1, (takeBits n (takeBits m s).2).2)
  | 0, n, s => by rw [Nat.zero_add]; rfl
  | m + 1, n, s => by
    rw [Nat.succ_add]
    simp only [takeBits, takeBits_add m n, List.cons_append]

/-- The bits left in a word, one by one (R63). -/
theorem lineBits_drop (w : Word10) {b : Nat} (hb : b < 10) :
    (lineBits w).drop b = w.getLsbD (9 - b) :: (lineBits w).drop (b + 1) := by
  have hlen : b < (lineBits w).length := by simpa [lineBits] using hb
  rw [List.drop_eq_getElem_cons hlen]
  simp [lineBits]

/-- The calls that exhaust the current word return its remaining bits (R207). -/
theorem takeBits_in_word (k : Nat) : ∀ (n b : Nat) (s : State), b + n = 10 →
    s.iter = { firstPacket := false, bitsSent := b, wordsSent := k } →
    takeBits n s =
      ((lineBits ((s.hand.buf s.hand.active).getD k 0)).drop b,
        s.setIter { firstPacket := false, bitsSent := 10, wordsSent := k })
  | 0, b, s, hb, h => by
    obtain rfl : b = 10 := hb
    rw [← h]
    rfl
  | n + 1, b, s, hb, h => by
    have hstep := nextBit_in_frame (il := id) h (by omega)
    have hrest := takeBits_in_word k n (b + 1)
      (s.setIter { firstPacket := false, bitsSent := b + 1, wordsSent := k }) (by omega) rfl
    have hdrop := lineBits_drop ((s.hand.buf s.hand.active).getD k 0) (b := b) (by omega)
    rw [takeBits, hstep, hdrop]
    simp only [hrest]
    rfl

/-- Calls after the same first call. -/
theorem takeBits_succ_congr {t : State} (n : Nat) (h : nextBit id s = nextBit id t) :
    takeBits (n + 1) s = takeBits (n + 1) t := by
  simp only [takeBits, h]

/-- The first words of a slot, the last of them apart. -/
theorem take_succ_getD {ws : List Word10} {k : Nat} (h : k < ws.length) :
    ws.take (k + 1) = ws.take k ++ [ws.getD k 0] := by
  rw [List.take_add_one, List.getElem?_eq_getElem h, List.getD_eq_getElem _ _ h]
  rfl

/-- Ten calls at the end of a word return the next word of the frame (R63, R207). -/
theorem takeBits_next_word {k : Nat}
    (h : s.iter = { firstPacket := false, bitsSent := 10, wordsSent := k }) (hk : k + 1 < s.cfg.frameLen) :
    takeBits 10 s =
      (lineBits ((s.hand.buf s.hand.active).getD (k + 1) 0),
        s.setIter { firstPacket := false, bitsSent := 10, wordsSent := k + 1 }) := by
  have hinside : atBoundary s = false := by simp [atBoundary, h, hk.ne]
  have hadvance := takeBits_succ_congr 9 (nextBit_nextWord (il := id) (by rw [h]) hinside)
  rw [hadvance, takeBits_in_word (k + 1) 10 0 _ rfl (by rw [State.setIter_iter, h])]
  rfl

/-- From the first bit of a frame, the words come in order, most significant bit first (R63, R212). -/
theorem takeBits_words (h : s.iter = { firstPacket := false, bitsSent := 0, wordsSent := 0 })
    (hlen : (s.hand.buf s.hand.active).length = s.cfg.frameLen) : ∀ k : Nat, k < s.cfg.frameLen →
    takeBits (10 * (k + 1)) s =
      (((s.hand.buf s.hand.active).take (k + 1)).flatMap lineBits,
        s.setIter { firstPacket := false, bitsSent := 10, wordsSent := k }) := by
  intro k
  induction k with
  | zero =>
    intro hk
    rw [take_succ_getD (hlen ▸ hk), takeBits_in_word 0 10 0 s rfl h]
    rfl
  | succ k ih =>
    intro hk
    rw [Nat.mul_succ, takeBits_add, ih (by omega), takeBits_next_word (s := s.setIter _) rfl hk,
      take_succ_getD (k := k + 1) (hlen ▸ hk), List.flatMap_append, List.flatMap_singleton]
    rfl

end

/-- Settles O50: all the words of the active slot. -/
theorem frameOnTheLine : Obligations.FrameOnTheLine := by
  intro s h hlen
  have hpos : s.cfg.frameLen - 1 + 1 = s.cfg.frameLen := Nat.sub_add_cancel (frameLen_pos s.cfg)
  have hwords := takeBits_words h hlen (s.cfg.frameLen - 1) (Nat.sub_lt (frameLen_pos s.cfg) Nat.one_pos)
  rw [hpos, List.take_of_length_le hlen.le] at hwords
  exact hwords

/-! ## What the CMD port leaves of FILLER (O23) -/

/-- With nothing interleaved, what a move of the CMD port leaves of FILLER (R61, R171, R295). The schedule is
part of it: while it stays empty no interleaving point lets FILLER move. -/
structure FillerKept (s t : State) : Prop where
  noTurns : t.turns = []
  fill : t.fill = s.fill
  fillJob : t.fillJob = s.fillJob
  enc : t.enc = s.enc
  buf0 : t.hand.buf0 = s.hand.buf0
  buf1 : t.hand.buf1 = s.hand.buf1
  ready : t.hand.ready = s.hand.ready
  fillState : t.hand.fillState = s.hand.fillState ∨
    (s.hand.fillState = .idle ∧ t.hand.fillState = .requested)

section
variable {s t u : State}

theorem FillerKept.refl (h : s.turns = []) : FillerKept s s :=
  ⟨h, rfl, rfl, rfl, rfl, rfl, rfl, .inl rfl⟩

/-- An update that leaves the handoff alone. -/
theorem FillerKept.of_eq (h : FillerKept s t) (hturns : u.turns = t.turns := by simp)
    (hfill : u.fill = t.fill := by simp) (hjob : u.fillJob = t.fillJob := by simp)
    (henc : u.enc = t.enc := by simp) (hhand : u.hand = t.hand := by simp) : FillerKept s u where
  noTurns := hturns.trans h.noTurns
  fill := hfill.trans h.fill
  fillJob := hjob.trans h.fillJob
  enc := henc.trans h.enc
  buf0 := hhand ▸ h.buf0
  buf1 := hhand ▸ h.buf1
  ready := hhand ▸ h.ready
  fillState := hhand ▸ h.fillState

/-! ### The updates of the CMD side -/

/-- The latch is the one update that reaches the handoff: it turns IDLE into REQUESTED (R208, R209). -/
theorem FillerKept.latch (h : FillerKept s t) : FillerKept s (t.setHand t.hand.latch) := by
  obtain ⟨hidle, hlatch⟩ | ⟨-, hlatch⟩ := t.hand.latch_cases
  · rw [hlatch]
    have hwas : s.hand.fillState = .idle := h.fillState.elim (fun hfs => hfs ▸ hidle) And.left
    exact { h with fillState := .inr ⟨hwas, rfl⟩ }
  · rw [hlatch]
    exact h

theorem FillerKept.crossBoundary (h : FillerKept s t) : FillerKept s (crossBoundary t) := by
  obtain hcross | ⟨fs, hcross⟩ := crossBoundary_cases t
  · exact hcross ▸ h.latch.of_eq rfl rfl rfl rfl rfl
  · exact hcross ▸ h.of_eq

theorem FillerKept.push (h : FillerKept s t) (v : Item) : FillerKept s (t.push .cmd v) :=
  h.of_eq rfl rfl rfl rfl rfl

theorem FillerKept.refuse (h : FillerKept s t) (e : Event) : FillerKept s (refuse .cmd e t) :=
  h.of_eq rfl rfl rfl rfl rfl

theorem FillerKept.setFir (h : FillerKept s t) (f : FirInst) (x : FirRegs) :
    FillerKept s (t.setFir f x) := h.of_eq

theorem FillerKept.oscNext (h : FillerKept s t) (sel : TableSel) : FillerKept s (oscNext sel t).2 :=
  h.of_eq rfl rfl rfl rfl rfl

theorem FillerKept.firStep (h : FillerKept s t) (f : FirInst) (x : Num) : FillerKept s (firStep f x t).2 :=
  h.setFir f _

theorem FillerKept.firClear (h : FillerKept s t) (f : FirInst) : FillerKept s (firClear f t) :=
  h.setFir f _

theorem FillerKept.iirStep (h : FillerKept s t) (x : Num) : FillerKept s (iirStep x t).2 := by
  have hguard : FillerKept s (iirGuard t) := by
    rcases iirGuard_cases t with hg | hg | hg <;> rw [hg] <;> exact h.of_eq
  exact hguard.of_eq rfl rfl rfl rfl rfl

theorem FillerKept.modRestart (h : FillerKept s t) (n : Nat) : FillerKept s (modRestart n t) :=
  h.of_eq rfl rfl rfl rfl rfl

theorem FillerKept.measureWindow (h : FillerKept s t) : FillerKept s (measureWindow t) := by
  rcases measureWindow_cases t with ⟨-, hw⟩ | ⟨-, hw⟩ <;> rw [hw] <;> exact h.of_eq

theorem FillerKept.loopTiming (h : FillerKept s t) (dt : Duration) : FillerKept s (loopTiming dt t) := by
  unfold Machine.loopTiming
  dsimp only
  split
  · split <;> exact h.of_eq rfl rfl rfl rfl rfl
  · exact h.of_eq

theorem FillerKept.clipCheck (h : FillerKept s t) (i : Nat) (o : Num) : FillerKept s (clipCheck i o t) := by
  unfold Machine.clipCheck
  split
  · exact h.of_eq
  · exact h

/-! ### The bit iterator and the modulator -/

theorem FillerKept.nextBit_id (h : FillerKept s t) : FillerKept s (nextBit id t).2 := by
  have hadvance : FillerKept s (iterAdvance id t) := by
    unfold iterAdvance
    split
    · split
      · exact h.crossBoundary
      · exact h.of_eq
    · exact h
  exact hadvance.of_eq rfl rfl rfl rfl rfl

theorem FillerKept.modStart (h : FillerKept s t) : FillerKept s (modStart t) := by
  have hpull : FillerKept s (modPull t).2 := by
    unfold modPull
    split
    · exact h
    · rw [nextBit_of_no_turns h.noTurns]
      exact h.nextBit_id
  unfold Machine.modStart
  split
  · exact hpull.of_eq rfl rfl rfl rfl rfl
  · exact h

theorem FillerKept.modBit (h : FillerKept s t) : FillerKept s (modBit t).2 := by
  have htick : ∀ m, FillerKept s ((Machine.modStart t).setModu m) := fun _ => h.modStart.of_eq
  unfold Machine.modBit
  dsimp only
  split
  · exact (htick _).firStep _ _
  · exact htick _

/-! ### The period processor -/

theorem FillerKept.runList {α : Type} {f : Nat → α → State → Num × State} {xs : List α} {k : Nat}
    (h : FillerKept s t) (hf : ∀ k x u, FillerKept s u → FillerKept s (f k x u).2) :
    FillerKept s (runList f k xs t).2 := runList_keeps hf xs k t h

theorem FillerKept.entryMode (h : FillerKept s t) (key : ModeKey) : FillerKept s (entryMode key t) := by
  unfold Machine.entryMode
  split
  · exact h.modRestart _
  · split
    · exact h.modRestart _
    · exact h
  · exact h.of_eq rfl rfl rfl rfl rfl
  · exact h.of_eq

theorem FillerKept.enterMode (h : FillerKept s t) : FillerKept s (enterMode t) := by
  have hcommon : FillerKept s (entryCommon t) := by
    have hclip : FillerKept s (t.setProc { t.proc with clipLogged := false }) := h.of_eq
    exact ((hclip.firClear .dec).firClear .int).of_eq rfl rfl rfl rfl rfl
  unfold Machine.enterMode
  split
  · exact h
  · exact (hcommon.entryMode _).of_eq rfl rfl rfl rfl rfl

theorem FillerKept.toneSample (h : FillerKept s t) (k : Nat) (x : Unit) :
    FillerKept s (toneSample k x t).2 := by
  unfold Machine.toneSample
  dsimp only
  split <;> exact h.oscNext .sine

theorem FillerKept.measureSample (h : FillerKept s t) (k : Nat) (x : Num) :
    FillerKept s (measureSample k x t).2 := by
  unfold Machine.measureSample
  dsimp only
  split
  · exact h.of_eq
  · exact h

theorem FillerKept.highPass (h : FillerKept s t) (xs : List Num) : FillerKept s (highPass xs t).2 := by
  unfold Machine.highPass
  split
  · exact h.runList fun _ x _ hu => hu.iirStep x
  · exact h

theorem FillerKept.inject (h : FillerKept s t) (xs : List Num) : FillerKept s (inject xs t).2 := by
  unfold Machine.inject
  split
  · exact h.runList (f := injectSample) fun _ _ _ hu => hu.modBit
  · exact h

theorem FillerKept.runDuv (h : FillerKept s t) (ins : List Num) : FillerKept s (runDuv ins t).2 := by
  have hdecimate : FillerKept s (decimate ins t).2 :=
    h.runList fun _ x _ hu => hu.firStep .dec x
  exact ((hdecimate.highPass _).inject _).runList (f := interpSample)
    fun _ x _ hu => (hu.firStep .int x).clipCheck _ _

theorem FillerKept.runMode (h : FillerKept s t) (ins : List Num) : FillerKept s (runMode ins t).2 := by
  unfold Machine.runMode
  split
  · exact h.runList fun k x _ hu => hu.toneSample k x
  · exact (h.runList fun k x _ hu => hu.measureSample k x).measureWindow
  · exact h.runList (f := hsSample) fun _ _ _ hu => hu.modBit.clipCheck _ _
  · exact h.runDuv ins

theorem FillerKept.periodRun (h : FillerKept s t) (ins : List Num) (dt : Duration) :
    FillerKept s (periodRun .cmd ins dt t) := by
  have hpushed : FillerKept s ((Machine.runMode ins (Machine.enterMode t)).2.pushAll .cmd
      ((Machine.runMode ins (Machine.enterMode t)).1.map Item.num)) :=
    (h.enterMode.runMode ins).of_eq rfl rfl rfl rfl rfl
  exact hpushed.loopTiming dt

/-! ### Every operation -/

/-- An operation on the CMD port touches no more of FILLER than its body does. -/
theorem FillerKept.accept {i : Instr} {body : List Item → State → State} (h : FillerKept s t)
    (hbody : ∀ (items : List Item) (u : State), FillerKept s u → FillerKept s (body items u)) :
    FillerKept s (accept .cmd i t body) := by
  cases hl : legal .cmd i t with
  | true =>
    rw [accept_of_legal hl]
    exact hbody _ _ (h.of_eq rfl rfl rfl rfl rfl)
  | false =>
    rw [accept_of_illegal hl]
    exact h.refuse _

/-- An operation the CMD port does not allow is refused there (R96). -/
theorem FillerKept.of_exec_illegal {i : Instr} (h : FillerKept s s) (hp : s.port = .cmd)
    (hport : portAllows .cmd i = false) (he : exec i s = .next t) : FillerKept s t := by
  have hl : legal s.port i s = false := by simp [legal, hp, hport]
  injection (exec_of_illegal hl).symm.trans he with he
  rw [← he, hp]
  exact h.refuse _

end

theorem FillerKept.genStore {s t : State} (h : FillerKept s t) (f : FirInst) (norm : Norm) (taps : List Num) :
    FillerKept s (genStore .cmd f norm taps t) := by
  unfold Machine.genStore
  split
  · exact h.refuse _
  · exact h.setFir _ _

/-- Every operation of the CMD port, under an empty schedule (R61, R171, R295). -/
theorem exec_fillerKept {i : Instr} {s t : State} (hp : s.port = .cmd) (hturns : s.turns = [])
    (he : exec i s = .next t) : FillerKept s t := by
  have h : FillerKept s s := .refl hturns
  cases i
  case rsClear | rsUpdate | rsRead | encReset | encByte | encSync | frameEncode | frameFill | framePoll =>
    exact h.of_exec_illegal hp rfl he
  all_goals
    injection he with he
    subst he
    rw [hp]
    refine h.accept fun items u hu => ?_
  case nop => exact hu
  case oscInit =>
    split
    · exact hu.refuse _
    · exact hu.of_eq rfl rfl rfl rfl rfl
  case oscNext sel => exact (hu.oscNext sel).push _
  case firReset f => exact hu.firClear f
  case firStep f =>
    split
    · exact (hu.firStep f _).push _
    · exact hu.refuse _
  case firLoadc f k => exact hu.setFir f _
  case firGenrc f norm | firGenrrc f norm =>
    dsimp only
    split
    · exact hu.genStore f norm _
    · exact hu.refuse _
  case iirReset | iirSetn => exact hu.of_eq
  case iirStep =>
    split
    · exact hu.refuse _
    · exact (hu.iirStep _).push _
  case iirLoadc =>
    dsimp only
    split
    · exact hu.refuse _
    · exact hu.of_eq
  case frameRdy | faultGet => exact hu.push _
  case frameReq => exact hu.latch
  case frameNextbit => exact hu.nextBit_id.push _
  case modInit =>
    dsimp only
    split
    · exact hu.refuse _
    · exact hu.modRestart _
  case modBit =>
    split
    · exact hu.refuse _
    · exact hu.modBit.push _
  case procPeriod n =>
    split
    · exact hu.of_eq rfl rfl rfl rfl rfl
    · split
      · exact hu.refuse _
      · exact hu.periodRun _ _
  case parGet r =>
    split
    · exact hu.refuse _
    · exact hu.push _
  case parSet r =>
    split
    · exact hu.refuse _
    · exact hu.of_eq

/-- Settles O23: what every operation leaves of FILLER, group by group. -/
theorem cmdMovesAreIsolated : Obligations.CmdMovesAreIsolated := by
  intro i s t hp hturns he
  obtain ⟨-, hfill, hjob, henc, hbuf0, hbuf1, hready, hfs⟩ := exec_fillerKept hp hturns he
  exact ⟨hfill, henc, hbuf0, hbuf1, hready, hjob, hfs⟩

end Sys2Proof.Machine
end

section
/-! The statements of spec 30_encoding.md: decoding and encoding are inverse (O1, O2), which words are operations
(O3), the port column (O7), the examples (O4), a step on a word that is no operation (O13) and `NOP` (O24). -/

namespace Sys2Proof

set_option Elab.async false

/-! ## The slices of the immediate field (R100)

The immediate of a row with operands of `k` bits is those bits below zeros; of `IIR.LOADC`, `sec` above `cid`. -/

/-- Zero bits above a value do not change its number. -/
theorem toNat_zero_append (m : Nat) {k : Nat} (x : BitVec k) : (0#m ++ x).toNat = x.toNat := by
  simp [BitVec.toNat_append]

/-- The low `k` bits of a value that fits them are its number. -/
theorem toNat_extractLsb'_of_lt {n k : Nat} {x : BitVec n} (h : x.toNat < 2 ^ k) :
    (x.extractLsb' 0 k).toNat = x.toNat := by
  rw [BitVec.extractLsb'_toNat, Nat.shiftRight_zero, Nat.mod_eq_of_lt h]

/-- A value that fits `k` bits is its low `k` bits below zeros. -/
theorem zero_append_extractLsb' {m k : Nat} {x : BitVec (m + k)} (h : x.toNat < 2 ^ k) :
    0#m ++ x.extractLsb' 0 k = x := by
  exact BitVec.eq_of_toNat_eq ((toNat_zero_append m _).trans (toNat_extractLsb'_of_lt h))

@[simp] theorem toNat_imm_byte (d : BitVec 8) : BitVec.toNat (w := 20) (0#12 ++ d) = d.toNat :=
  toNat_zero_append 12 d

@[simp] theorem toNat_imm_index (x : BitVec 5) : BitVec.toNat (w := 20) (0#15 ++ x) = x.toNat :=
  toNat_zero_append 15 x

@[simp] theorem extractLsb'_imm_byte (d : BitVec 8) : BitVec.extractLsb' (n := 20) 0 8 (0#12 ++ d) = d :=
  BitVec.extractLsb'_append_eq_right

@[simp] theorem extractLsb'_imm_index (x : BitVec 5) : BitVec.extractLsb' (n := 20) 0 5 (0#15 ++ x) = x :=
  BitVec.extractLsb'_append_eq_right

/-- `sec` and `cid` together are one slice of 8 bits. -/
theorem append_sec_cid (sec cid : BitVec 4) : 0#12 ++ sec ++ cid = 0#12 ++ (sec ++ cid) :=
  BitVec.append_assoc

@[simp] theorem extractLsb'_imm_cid (sec cid : BitVec 4) :
    BitVec.extractLsb' (n := 20) 0 4 (0#12 ++ sec ++ cid) = cid := BitVec.extractLsb'_append_eq_right

@[simp] theorem extractLsb'_imm_sec (sec cid : BitVec 4) :
    BitVec.extractLsb' (n := 20) 4 4 (0#12 ++ sec ++ cid) = sec := by
  refine BitVec.eq_of_getLsbD_eq fun i hi => ?_
  rw [BitVec.getLsbD_extractLsb', BitVec.getLsbD_append, BitVec.getLsbD_append]
  simp [hi]

@[simp] theorem toNat_imm_sec_cid (sec cid : BitVec 4) :
    BitVec.toNat (w := 20) (0#12 ++ sec ++ cid) = 16 * sec.toNat + cid.toNat := by
  rw [append_sec_cid]
  refine (toNat_zero_append 12 (sec ++ cid)).trans ?_
  rw [BitVec.toNat_append, ← Nat.shiftLeft_add_eq_or_of_lt cid.isLt, Nat.shiftLeft_eq, Nat.mul_comm]

/-- An immediate of 8 bits is its `sec` and `cid` slices. -/
theorem sec_append_cid_of_lt {imm : BitVec 20} (h : imm.toNat < 2 ^ 8) :
    0#12 ++ imm.extractLsb' 4 4 ++ imm.extractLsb' 0 4 = imm := by
  have hslice : imm.extractLsb' 4 4 ++ imm.extractLsb' 0 4 = imm.extractLsb' 0 8 :=
    BitVec.extractLsb'_append_extractLsb'_eq_extractLsb' rfl
  rw [append_sec_cid, hslice]
  exact zero_append_extractLsb' h

/-! ## Which numbers are codes (R40, R100, R101) -/

theorem tableSel_code_of {imm : BitVec 20} (h : imm.toNat < 2 ^ 1) : (tableSelOf imm).code = imm := by
  obtain rfl | rfl : imm = 0 ∨ imm = 1 := by bv_omega
  all_goals rfl

theorem norm_code_of {imm : BitVec 20} (h : imm.toNat < 2 ^ 1) : (normOf imm).code = imm := by
  obtain rfl | rfl : imm = 0 ∨ imm = 1 := by bv_omega
  all_goals rfl

theorem TableSel.code_lt (sel : TableSel) : sel.code.toNat < 2 := by cases sel <;> decide

theorem Norm.code_lt (norm : Norm) : norm.code.toNat < 2 := by cases norm <;> decide

theorem exists_firInst_code_iff {u : BitVec 4} : (∃ f : FirInst, f.code = u) ↔ u.toNat ≤ 2 := by
  constructor
  · rintro ⟨f, rfl⟩
    cases f <;> decide
  · intro h
    have hsome : (firInstOf u).isSome = true := by
      revert u
      decide
    obtain ⟨f, hf⟩ := Option.isSome_iff_exists.1 hsome
    exact ⟨f, firInst_code_of hf⟩

theorem exists_iirCoef_code_iff {u : BitVec 4} : (∃ c : IirCoef, c.code = u) ↔ u.toNat ≤ 9 := by
  constructor
  · rintro ⟨c, rfl⟩
    cases c <;> decide
  · intro h
    have hsome : (iirCoefOf u).isSome = true := by
      revert u
      decide
    obtain ⟨c, hc⟩ := Option.isSome_iff_exists.1 hsome
    exact ⟨c, iirCoef_code_of hc⟩

theorem exists_parReg_code_iff {u : BitVec 8} :
    (∃ r : ParReg, r.code = u) ↔ u.toNat ≤ 18 ∨ (32 ≤ u.toNat ∧ u.toNat ≤ 39) := by
  constructor
  · rintro ⟨r, rfl⟩
    cases r <;> decide
  · intro h
    have hsome : (parRegOf u).isSome = true := by
      revert u
      decide
    obtain ⟨r, hr⟩ := Option.isSome_iff_exists.1 hsome
    exact ⟨r, parReg_code_of hr⟩

/-! ## When a row accepts a word -/

section
variable {k : Nat} {w : Word} {i : Instr} {imm : BitVec 20}

theorem plainOp_eq_ok_iff {mk : BitVec 20 → Except DecodeError Instr} :
    plainOp k w mk = .ok i ↔ unitOf w = 0 ∧ (immOf w).toNat < 2 ^ k ∧ mk (immOf w) = .ok i := by
  unfold plainOp immFits
  by_cases hu : unitOf w = 0
  · rw [if_neg (not_not.2 hu)]
    split <;> simp_all
  · rw [if_pos hu]
    exact iff_of_false nofun fun h => hu h.1

theorem firOp_eq_ok_iff {mk : FirInst → BitVec 20 → Instr} :
    firOp k w mk = .ok i ↔
      ∃ f : FirInst, f.code = unitOf w ∧ (immOf w).toNat < 2 ^ k ∧ mk f (immOf w) = i := by
  unfold firOp immFits
  constructor
  · intro h
    split at h
    · cases h
    · next f hf =>
      split at h
      · next hk => exact ⟨f, firInst_code_of hf, of_decide_eq_true hk, Except.ok.inj h⟩
      · cases h
  · rintro ⟨f, hcode, hk, rfl⟩
    rw [← hcode, firInstOf_code]
    exact if_pos (decide_eq_true hk)

theorem iirLoadcOp_eq_ok_iff :
    iirLoadcOp imm = .ok i ↔
      ∃ c : IirCoef, c.code = imm.extractLsb' 0 4 ∧ .iirLoadc (imm.extractLsb' 4 4) c = i := by
  unfold iirLoadcOp
  constructor
  · intro h
    split at h
    · cases h
    · next c hc => exact ⟨c, iirCoef_code_of hc, Except.ok.inj h⟩
  · rintro ⟨c, hcode, rfl⟩
    rw [← hcode, iirCoefOf_code]

theorem parOp_eq_ok_iff {mk : ParReg → Instr} :
    parOp mk imm = .ok i ↔ ∃ r : ParReg, r.code = imm.extractLsb' 0 8 ∧ mk r = i := by
  unfold parOp
  constructor
  · intro h
    split at h
    · cases h
    · next r hr => exact ⟨r, parReg_code_of hr, Except.ok.inj h⟩
  · rintro ⟨r, hcode, rfl⟩
    rw [← hcode, parRegOf_code]

end

/-! ## Decode of encode (O1) -/

/-- Settles O1: the row of each instruction accepts its word and reads its operands back. -/
theorem decodeEncode : Obligations.DecodeEncode := by
  intro i
  cases i
  case nop | oscInit | iirReset | iirStep | rsClear | encReset | encSync | frameEncode | frameFill | frameRdy
      | frameReq | frameNextbit | framePoll | modInit | modBit | faultGet => rfl
  case oscNext sel => simpa [encode, decode, plainOp_eq_ok_iff] using sel.code_lt
  case firReset f | firStep f => cases f <;> rfl
  case firLoadc f index => simpa [encode, decode, firOp_eq_ok_iff] using index.isLt
  case firGenrc f norm | firGenrrc f norm =>
    simpa [encode, decode, firOp_eq_ok_iff] using norm.code_lt
  case iirLoadc sec cid =>
    have hslice : 16 * sec.toNat + cid.code.toNat < 256 := by
      have hsec := sec.isLt
      have hcid := cid.code.isLt
      omega
    simpa [encode, decode, plainOp_eq_ok_iff, iirLoadcOp_eq_ok_iff] using hslice
  case iirSetn n | procPeriod n => simpa [encode, decode, plainOp_eq_ok_iff] using n.isLt
  case rsUpdate d | encByte d => simpa [encode, decode, plainOp_eq_ok_iff] using d.isLt
  case rsRead index => simpa [encode, decode, plainOp_eq_ok_iff] using index.isLt
  case parGet r | parSet r =>
    simpa [encode, decode, plainOp_eq_ok_iff, parOp_eq_ok_iff] using r.code.isLt

/-! ## The rows of the opcode table

A word decodes exactly when its fields are in a row: each row of `decode` asks for its fields, and each row's
fields are the word of an instruction, which decodes (O1). -/

/-- The opcode table by fields (R96, R100, R101): the number of an operation, its unit codes, its immediates. -/
def IsRow (op u imm : Nat) : Prop :=
  (op ∈ [0x00, 0x08, 0x20, 0x21, 0x30, 0x40, 0x42, 0x50, 0x51, 0x52, 0x53, 0x54, 0x55, 0x60, 0x61, 0x82]
      ∧ u = 0 ∧ imm = 0) ∨
  (op = 0x09 ∧ u = 0 ∧ imm < 2) ∨
  (op ∈ [0x10, 0x11] ∧ u ≤ 2 ∧ imm = 0) ∨
  (op = 0x12 ∧ u ≤ 2) ∨
  (op ∈ [0x13, 0x14] ∧ u ≤ 2 ∧ imm < 2) ∨
  (op = 0x22 ∧ u = 0 ∧ imm < 256 ∧ imm % 16 ≤ 9) ∨
  (op ∈ [0x23, 0x70] ∧ u = 0) ∨
  (op ∈ [0x31, 0x41] ∧ u = 0 ∧ imm < 256) ∨
  (op = 0x32 ∧ u = 0 ∧ imm < 32) ∨
  (op ∈ [0x80, 0x81] ∧ u = 0 ∧ (imm ≤ 18 ∨ (32 ≤ imm ∧ imm ≤ 39)))

/-- The three fields of a word are in a row of the table. -/
def FieldsInTable (w : Word) : Prop := IsRow (opOf w).toNat (unitOf w).toNat (immOf w).toNat

section
variable {w : Word} {i : Instr} {op : BitVec 8} {imm : BitVec 20}

/-- A word that decodes is in its row. Apart from the rows with nothing but a slice of zero or more bits, the
cases are `FIR.*`, `IIR.LOADC`, the `PAR.*` registers, the rows that take the whole immediate, and the reserved
opcodes. -/
theorem fieldsInTable_of_decode (h : decode w = .ok i) : FieldsInTable w := by
  unfold decode at h
  unfold FieldsInTable
  split at h
  case h_4 hop | h_5 hop | h_7 hop | h_8 hop =>
    obtain ⟨f, hf, hk, -⟩ := firOp_eq_ok_iff.1 h
    have hu := exists_firInst_code_iff.1 ⟨f, hf⟩
    simpa [IsRow, hop, hu] using hk
  case h_6 hop =>
    obtain ⟨f, hf, -⟩ := firOp_eq_ok_iff.1 h
    have hu := exists_firInst_code_iff.1 ⟨f, hf⟩
    simpa [IsRow, hop] using hu
  case h_11 hop =>
    obtain ⟨hu, hk, hmk⟩ := plainOp_eq_ok_iff.1 h
    obtain ⟨c, hc, -⟩ := iirLoadcOp_eq_ok_iff.1 hmk
    have hcid := exists_iirCoef_code_iff.1 ⟨c, hc⟩
    simpa [IsRow, hop, hu] using And.intro hk hcid
  case h_28 hop | h_29 hop =>
    obtain ⟨hu, hk, hmk⟩ := plainOp_eq_ok_iff.1 h
    obtain ⟨r, hr, -⟩ := parOp_eq_ok_iff.1 hmk
    have hreg := exists_parReg_code_iff.1 ⟨r, hr⟩
    rw [toNat_extractLsb'_of_lt hk] at hreg
    simpa [IsRow, hop, hu] using hreg
  case h_12 hop | h_27 hop =>
    obtain ⟨hu, -⟩ := plainOp_eq_ok_iff.1 h
    simp [IsRow, hop, hu]
  case h_31 => cases h
  all_goals
    next hop =>
    obtain ⟨hu, hk, -⟩ := plainOp_eq_ok_iff.1 h
    simpa [IsRow, hop, hu] using hk

/-- An opcode whose number is in a list is one of the opcodes the list names. -/
theorem mem_map_ofNat_of_toNat_mem {ns : List Nat} (h : op.toNat ∈ ns) : op ∈ ns.map (BitVec.ofNat 8) := by
  have hmem := List.mem_map_of_mem (f := BitVec.ofNat 8) h
  rwa [BitVec.ofNat_toNat, BitVec.setWidth_eq] at hmem

theorem eq_or_eq_of_toNat_mem {m n : Nat} (h : op.toNat ∈ [m, n]) :
    op = BitVec.ofNat 8 m ∨ op = BitVec.ofNat 8 n := by
  simpa using mem_map_ofNat_of_toNat_mem h

/-- The operations without operands, in the order of R96. -/
theorem exists_encode_bare :
    ∀ op ∈ [0x00, 0x08, 0x20, 0x21, 0x30, 0x40, 0x42, 0x50, 0x51, 0x52, 0x53, 0x54, 0x55, 0x60, 0x61,
      0x82].map (BitVec.ofNat 8), ∃ i, encode i = mkWord op 0 0 := by
  simp only [List.map_cons, List.map_nil, List.forall_mem_cons]
  exact ⟨⟨.nop, rfl⟩, ⟨.oscInit, rfl⟩, ⟨.iirReset, rfl⟩, ⟨.iirStep, rfl⟩, ⟨.rsClear, rfl⟩, ⟨.encReset, rfl⟩,
    ⟨.encSync, rfl⟩, ⟨.frameEncode, rfl⟩, ⟨.frameFill, rfl⟩, ⟨.frameRdy, rfl⟩, ⟨.frameReq, rfl⟩,
    ⟨.frameNextbit, rfl⟩, ⟨.framePoll, rfl⟩, ⟨.modInit, rfl⟩, ⟨.modBit, rfl⟩, ⟨.faultGet, rfl⟩, nofun⟩

/-- Every row is the word of an instruction. -/
theorem exists_encode_of_isRow {u : BitVec 4} (h : IsRow op.toNat u.toNat imm.toNat) :
    ∃ i, encode i = mkWord op u imm := by
  have hzero {m : Nat} {x : BitVec m} (hx : x.toNat = 0) : x = 0 := BitVec.eq_of_toNat_eq hx
  rcases h with ⟨hop, hu, himm⟩ | ⟨hop, hu, himm⟩ | ⟨hop, hu, himm⟩ | ⟨hop, hu⟩ | ⟨hop, hu, himm⟩ |
    ⟨hop, hu, himm, hcid⟩ | ⟨hop, hu⟩ | ⟨hop, hu, himm⟩ | ⟨hop, hu, himm⟩ | ⟨hop, hu, himm⟩
  · rw [hzero hu, hzero himm]
    exact exists_encode_bare op (mem_map_ofNat_of_toNat_mem hop)
  · obtain rfl : op = 0x09 := BitVec.eq_of_toNat_eq hop
    rw [hzero hu, ← tableSel_code_of himm]
    exact ⟨.oscNext _, rfl⟩
  · obtain ⟨f, rfl⟩ := exists_firInst_code_iff.2 hu
    rw [hzero himm]
    obtain rfl | rfl := eq_or_eq_of_toNat_mem hop
    · exact ⟨.firReset f, rfl⟩
    · exact ⟨.firStep f, rfl⟩
  · obtain ⟨f, rfl⟩ := exists_firInst_code_iff.2 hu
    obtain rfl : op = 0x12 := BitVec.eq_of_toNat_eq hop
    exact ⟨.firLoadc f imm, rfl⟩
  · obtain ⟨f, rfl⟩ := exists_firInst_code_iff.2 hu
    rw [← norm_code_of himm]
    obtain rfl | rfl := eq_or_eq_of_toNat_mem hop
    · exact ⟨.firGenrc f _, rfl⟩
    · exact ⟨.firGenrrc f _, rfl⟩
  · obtain rfl : op = 0x22 := BitVec.eq_of_toNat_eq hop
    have hcid' : (imm.extractLsb' 0 4).toNat ≤ 9 := by simpa using hcid
    obtain ⟨c, hc⟩ := exists_iirCoef_code_iff.2 hcid'
    rw [hzero hu, ← sec_append_cid_of_lt himm, ← hc]
    exact ⟨.iirLoadc _ c, rfl⟩
  · rw [hzero hu]
    obtain rfl | rfl := eq_or_eq_of_toNat_mem hop
    · exact ⟨.iirSetn imm, rfl⟩
    · exact ⟨.procPeriod imm, rfl⟩
  · rw [hzero hu, ← zero_append_extractLsb' (m := 12) (k := 8) himm]
    obtain rfl | rfl := eq_or_eq_of_toNat_mem hop
    · exact ⟨.rsUpdate _, rfl⟩
    · exact ⟨.encByte _, rfl⟩
  · obtain rfl : op = 0x32 := BitVec.eq_of_toNat_eq hop
    rw [hzero hu, ← zero_append_extractLsb' (m := 15) (k := 5) himm]
    exact ⟨.rsRead _, rfl⟩
  · have hlt : imm.toNat < 2 ^ 8 := by omega
    rw [← toNat_extractLsb'_of_lt hlt] at himm
    obtain ⟨r, hr⟩ := exists_parReg_code_iff.2 himm
    rw [hzero hu, ← zero_append_extractLsb' (m := 12) (k := 8) hlt, ← hr]
    obtain rfl | rfl := eq_or_eq_of_toNat_mem hop
    · exact ⟨.parGet r, rfl⟩
    · exact ⟨.parSet r, rfl⟩

/-- A word in a row of the table is the word of an instruction. -/
theorem exists_encode_of_fieldsInTable (h : FieldsInTable w) : ∃ i, encode i = w := by
  rw [← mkWord_fields w]
  exact exists_encode_of_isRow h

end

/-! ## Encode of decode (O2) -/

/-- Settles O2: a word that decodes is in its row, so it is the word of an instruction, which is the one it
decodes to (O1). -/
theorem encodeDecode : Obligations.EncodeDecode := by
  intro w i h
  obtain ⟨j, rfl⟩ := exists_encode_of_fieldsInTable (fieldsInTable_of_decode h)
  rw [Except.ok.inj ((decodeEncode j).symm.trans h)]

/-! ## Exactly which words are operations (O3) -/

theorem toNat_opOf (w : Word) : (opOf w).toNat = w.toNat / 2 ^ 24 := by
  rw [opOf, BitVec.extractLsb'_toNat, Nat.shiftRight_eq_div_pow]
  have hlt := w.isLt
  omega

theorem toNat_unitOf (w : Word) : (unitOf w).toNat = w.toNat / 2 ^ 20 % 16 := by
  rw [unitOf, BitVec.extractLsb'_toNat, Nat.shiftRight_eq_div_pow]

theorem toNat_immOf (w : Word) : (immOf w).toNat = w.toNat % 2 ^ 20 := by
  rw [immOf, BitVec.extractLsb'_toNat, Nat.shiftRight_zero]

/-- Settles O3: the words of a row are the words of the instructions (O1). -/
theorem decodeDomain : Obligations.DecodeDomain := by
  intro w
  have hfields : FieldsInTable w ↔ IsRow (w.toNat / 2 ^ 24) (w.toNat / 2 ^ 20 % 16) (w.toNat % 2 ^ 20) := by
    rw [FieldsInTable, toNat_opOf, toNat_unitOf, toNat_immOf]
  refine Iff.trans ⟨?_, fun h => ?_⟩ hfields
  · rintro ⟨i, h⟩
    exact fieldsInTable_of_decode h
  · obtain ⟨i, rfl⟩ := exists_encode_of_fieldsInTable h
    exact ⟨i, decodeEncode i⟩

/-! ## The encoding examples (O4) -/

/-- Settles O4: the words of R107 are what `encode` gives; that they decode is O1. -/
theorem encodingExamples : Obligations.EncodingExamples := by
  intro x hx
  have hword : encode x.1 = x.2 := by
    revert x
    decide
  exact ⟨hword, hword ▸ decodeEncode x.1⟩

end Sys2Proof

namespace Sys2Proof.Machine

set_option Elab.async false

/-! ## The port column (O7) -/

/-- Settles O7: the port is one of the conditions of legality (O6). -/
theorem portTable : Obligations.PortTable := by
  intro i s op
  have hrefused := (illegalRefused i s).2
  refine ⟨fun hp hop => hrefused ?_, fun hp hop => hrefused ?_⟩
  · rintro ⟨-, ⟨-, hfill⟩, -⟩
    exact hop (hfill hp)
  · rintro ⟨-, ⟨hcmd, -⟩, -⟩
    exact hcmd hp hop

/-! ## A step on a word that is no operation (O13) -/

section
variable {s : State} {x : Txn} {more : List Txn} {e : DecodeError}

/-- A port refuses its next word when that is no operation (R104, R282). -/
theorem portMove_of_error {p : Port} (hin : (s.io p).inbox = x :: more) (hw : decode x.word = .error e) :
    portMove p s = .next (refuse p (.cmdIllegal x.word) (s.deliver p x more)) := by
  simp only [portMove, hin, runWord_of_error hw]

theorem fillPortMove_of_error (hfree : s.fillJob = none ∨ s.flt.halted = true)
    (hin : s.fill.inbox = x :: more) (hw : decode x.word = .error e) :
    fillPortMove s = .next (refuse .fill (.cmdIllegal x.word) (s.deliver .fill x more)) := by
  rw [fillPortMove_of_cons (activeJob_none hfree) hin, runWord_of_error hw]

end

/-- Settles O13: which port moves, and the refusal it leaves. -/
theorem stepRefusesOtherWords : Obligations.StepRefusesOtherWords := by
  intro s x more rest e hw free flt
  refine ⟨fun hturns hin => ?_, fun hturns hfree hin => ?_, fun hturns hin => ?_,
    fun hturns hcmd hfree hin => ?_⟩
  · exact (step_of_cmd_turn hturns).trans (portMove_of_error (p := .cmd) hin hw)
  · exact (step_of_fill_turn hturns).trans (fillPortMove_of_error hfree hin hw)
  · exact (step_of_cmd_inbox hturns hin).trans (portMove_of_error (p := .cmd) hin hw)
  · exact (step_of_no_turn hturns hcmd).trans (fillPortMove_of_error hfree hin hw)

/-! ## `NOP` (O24) -/

/-- `NOP` with no operands is legal on either port, halted or not, and changes nothing (R105). -/
theorem exec_nop {s : State} (hd : (s.io s.port).din = []) : exec .nop s = .next s := by
  have hl : legal s.port .nop s = true :=
    legal_iff.2 ⟨rfl, rfl, .inr rfl, rfl, kindsMatch_nil_iff.2 hd⟩
  change Host.Outcome.next (nopOn s.port s) = _
  rw [nopOn, accept_of_legal hl, clearDin_of_empty hd]

/-- Op 0 is the row of `NOP`. -/
theorem decode_of_op_zero {w : Word} (h : opOf w = 0) : decode w = plainOp 0 w fun _ => .ok .nop := by
  simp [decode, h]

/-- With op 0 no other field may be set (R105). -/
theorem decode_error_of_op_zero {w : Word} (hop : opOf w = 0) (hset : unitOf w ≠ 0 ∨ immOf w ≠ 0) :
    ∃ e, decode w = .error e := by
  cases hw : decode w with
  | error e => exact ⟨e, rfl⟩
  | ok i =>
    obtain ⟨hu, himm, -⟩ := plainOp_eq_ok_iff.1 ((decode_of_op_zero hop).symm.trans hw)
    have hzero : immOf w = 0 := BitVec.eq_of_toNat_eq (Nat.lt_one_iff.1 himm)
    exact absurd hset (not_or.2 ⟨not_not.2 hu, not_not.2 hzero⟩)

/-- Settles O24: the operation, its word, and the two ways to be refused. -/
theorem nopResult : Obligations.NopResult := by
  refine ⟨fun _ hd => exec_nop hd, rfl, fun p w s hop hset => ?_, fun s hd => ?_⟩
  · obtain ⟨e, hw⟩ := decode_error_of_op_zero hop hset
    exact runWord_of_error hw
  · refine (illegalRefused .nop s).2 ?_
    rintro ⟨-, -, -, -, hframe⟩
    exact hd hframe

end Sys2Proof.Machine
end

section
/-! The statements of spec 40_oscillator.md: what a mode entry resets and restarts (O57), and what an accepted
period does and leaves alone, with the sample loops of TONE and HS (O55). -/

namespace Sys2Proof.Machine

set_option Elab.async false

/-! ## Mode entry (O57)

A mode entry ends by latching its key. Each restart commutes with the latch, so the entry is the restart of the
state that the common resets and the latch leave. -/

/-- The last step of a mode entry (R238). -/
def State.latchKey (s : State) (key : ModeKey) : State := s.setProc { s.proc with curKey := some key }

section
variable (s : State) (key : ModeKey)

theorem modeEntry_eq_latchKey : modeEntry key s = (entryMode key (entryCommon s)).latchKey key := rfl

/-- The resets every mode entry makes (R238). -/
theorem entryCommon_latchKey :
    (entryCommon s).latchKey key = { s with
      firDec := { s.firDec with hist := List.replicate s.firDec.hist.length 0 }
      firInt := { s.firInt with hist := List.replicate s.firInt.hist.length 0 }
      iir := { s.iir with regs := List.replicate s.iir.regs.length ⟨0, 0, 0, 0⟩, maxReg := 0 }
      proc := { s.proc with clipLogged := false, curKey := some key } } := rfl

/-- The modulator restarted (R222). -/
theorem modRestart_latchKey (n : Nat) :
    (modRestart n s).latchKey key = { s.latchKey key with
      modu := { state := .starting, currentBit := false, samplesSent := 0, onesRun := 0, zerosRun := 0,
                samplesPerBit := some n }
      iter := { firstPacket := true, bitsSent := 0, wordsSent := 0 }
      firBit := { s.firBit with hist := List.replicate s.firBit.hist.length 0 } } := rfl

/-- The oscillator restarted (R123). -/
theorem oscRestart_latchKey (freq : Num) :
    (oscRestart freq s).latchKey key = { s.latchKey key with
      osc := { phase := 0, inc := numDiv s.cfg.num freq (s.par.sampleRate : Rat) } } := rfl

/-- The peak meter restarted (R238). -/
theorem peakReset_latchKey :
    (s.setProc { s.proc with peak := 0, measCount := 0 }).latchKey key = { s.latchKey key with
      proc := { (s.latchKey key).proc with peak := 0, measCount := 0 } } := rfl

end

theorem enterMode_of_latched {s : State} (h : s.proc.curKey = some (modeKeyOf s.par)) :
    enterMode s = s := if_pos h

theorem enterMode_of_not_latched {s : State} (h : s.proc.curKey ≠ some (modeKeyOf s.par)) :
    enterMode s = modeEntry (modeKeyOf s.par) s := if_neg h

/-- Settles O57: mode by mode, the restart of the state the common resets leave. -/
theorem modeEntryResult : Obligations.ModeEntry := by
  intro s hdec hint hbit hregs
  dsimp only
  rw [← hdec, ← hint, ← hbit, ← hregs]
  refine ⟨enterMode_of_latched, fun hkey => ?_⟩
  have hmode : (modeKeyOf s.par).mode = resolveMode s.par := rfl
  rw [enterMode_of_not_latched hkey, modeEntry_eq_latchKey, entryMode, hmode, entryCommon_par]
  cases resolveMode s.par with
  | hs =>
    dsimp only
    rw [modRestart_latchKey, entryCommon_latchKey]
    rfl
  | tone =>
    dsimp only
    rw [oscRestart_latchKey, entryCommon_latchKey]
    rfl
  | measure =>
    dsimp only
    rw [peakReset_latchKey, entryCommon_latchKey]
  | duv =>
    cases s.par.telemEn with
    | false => exact entryCommon_latchKey s _
    | true =>
      dsimp only
      rw [if_pos rfl, if_pos rfl, modRestart_latchKey, entryCommon_latchKey]
      rfl

/-! ## What no part of a period writes (O55) -/

/-- What the run of a period leaves alone: configuration, parameters, coefficients, `HALTED`, and the queues
of the port (R236). -/
structure PeriodFrame where
  cfg : Config
  par : ParRegs
  port : Port
  cmd : PortIO
  halted : Bool
  coef : FirInst → List (Option Num)
  nsec : Option Nat
  coefs : List IirCoefs

/-- The part of a state that a period leaves alone. -/
def State.periodFrame (s : State) : PeriodFrame where
  cfg := s.cfg
  par := s.par
  port := s.port
  cmd := s.cmd
  halted := s.flt.halted
  coef f := (s.fir f).coef
  nsec := s.iir.nsec
  coefs := s.iir.coefs

section
variable (s : State)

variable {s} in
theorem State.par_eq_of_periodFrame {t : State} (h : t.periodFrame = s.periodFrame) : t.par = s.par :=
  congrArg PeriodFrame.par h

variable {s} in
theorem State.cmd_eq_of_periodFrame {t : State} (h : t.periodFrame = s.periodFrame) : t.cmd = s.cmd :=
  congrArg PeriodFrame.cmd h

/-! ### Updates of the state -/

theorem periodFrame_setCmd (x : PortIO) :
    (s.setCmd x).periodFrame = { s.periodFrame with cmd := x } := rfl

@[simp] theorem periodFrame_setOsc (x : OscRegs) : (s.setOsc x).periodFrame = s.periodFrame := by
  simp [State.periodFrame]

@[simp] theorem periodFrame_setHand (x : HandRegs) : (s.setHand x).periodFrame = s.periodFrame := by
  simp [State.periodFrame]

@[simp] theorem periodFrame_setIter (x : IterRegs) : (s.setIter x).periodFrame = s.periodFrame := by
  simp [State.periodFrame]

@[simp] theorem periodFrame_setModu (x : ModRegs) : (s.setModu x).periodFrame = s.periodFrame := by
  simp [State.periodFrame]

@[simp] theorem periodFrame_setProc (x : ProcRegs) : (s.setProc x).periodFrame = s.periodFrame := by
  simp [State.periodFrame]

@[simp] theorem periodFrame_emit (e : Event) : (s.emit e).periodFrame = s.periodFrame := by
  simp [State.periodFrame]

/-- An IIR update that writes registers, not coefficients. -/
theorem periodFrame_setIir {x : IirRegs} (hnsec : x.nsec = s.iir.nsec) (hcoefs : x.coefs = s.iir.coefs) :
    (s.setIir x).periodFrame = s.periodFrame := by
  simp [State.periodFrame, hnsec, hcoefs]

/-- A FIR update that writes a history, not coefficients. -/
@[simp] theorem periodFrame_setHist (f : FirInst) (hist : List Num) :
    (s.setFir f { s.fir f with hist := hist }).periodFrame = s.periodFrame := by
  have hcoef : ∀ g, ((s.setFir f { s.fir f with hist := hist }).fir g).coef = (s.fir g).coef := by
    intro g
    by_cases hg : g = f
    · subst hg
      simp
    · rw [State.fir_setFir_other _ _ _ _ hg]
  simp [State.periodFrame, hcoef]

/-! ### The procedures a period calls -/

@[simp] theorem periodFrame_oscRestart (q : Num) : (oscRestart q s).periodFrame = s.periodFrame :=
  periodFrame_setOsc s _

@[simp] theorem periodFrame_oscNext (sel : TableSel) : (oscNext sel s).2.periodFrame = s.periodFrame :=
  periodFrame_setOsc s _

@[simp] theorem periodFrame_firClear (f : FirInst) : (firClear f s).periodFrame = s.periodFrame :=
  periodFrame_setHist s f _

@[simp] theorem periodFrame_firStep (f : FirInst) (x : Num) :
    (firStep f x s).2.periodFrame = s.periodFrame := periodFrame_setHist s f _

@[simp] theorem periodFrame_iirGuard : (iirGuard s).periodFrame = s.periodFrame := by
  rcases iirGuard_cases s with h | h | h <;> rw [h]
  · exact periodFrame_setIir s rfl rfl
  · rw [periodFrame_emit]
    exact periodFrame_setIir s rfl rfl

@[simp] theorem periodFrame_iirStep (x : Num) : (iirStep x s).2.periodFrame = s.periodFrame :=
  (periodFrame_setIir (iirGuard s) rfl rfl).trans (periodFrame_iirGuard s)

@[simp] theorem periodFrame_modRestart (n : Nat) : (modRestart n s).periodFrame = s.periodFrame := by
  simp [modRestart]

@[simp] theorem periodFrame_crossBoundary : (crossBoundary s).periodFrame = s.periodFrame := by
  rcases crossBoundary_cases s with h | ⟨fs, h⟩ <;> simp [h]

/-- FILLER reaches none of it at an interleaving point (R69, R295). -/
@[simp] theorem periodFrame_interleave : (interleave s).periodFrame = s.periodFrame := by
  obtain ⟨hcfg, hport, -, hdec, hint, hbit, hiir, -, -, -, hpar, -, hhalted⟩ := interleave_frame s
  have hfir : ∀ f, (interleave s).fir f = s.fir f
    | .dec => hdec
    | .int => hint
    | .bit => hbit
  simp [State.periodFrame, hcfg, hport, hiir, hpar, hhalted, hfir, interleave_cmd]

@[simp] theorem periodFrame_nextBit : (nextBit interleave s).2.periodFrame = s.periodFrame := by
  have hadvance : (iterAdvance interleave s).periodFrame = s.periodFrame := by
    unfold iterAdvance
    split
    · split <;> simp
    · rfl
  exact (periodFrame_setIter _ _).trans hadvance

@[simp] theorem periodFrame_modStart : (modStart s).periodFrame = s.periodFrame := by
  have hpull : (modPull s).2.periodFrame = s.periodFrame := by
    unfold modPull
    split <;> simp
  unfold modStart
  split
  · exact (periodFrame_setModu _ _).trans hpull
  · rfl

@[simp] theorem periodFrame_modBit : (modBit s).2.periodFrame = s.periodFrame := by
  unfold modBit
  dsimp only
  split <;> simp

@[simp] theorem periodFrame_clipCheck (i : Nat) (o : Num) :
    (clipCheck i o s).periodFrame = s.periodFrame := by
  unfold clipCheck
  split <;> simp

@[simp] theorem periodFrame_measureWindow : (measureWindow s).periodFrame = s.periodFrame := by
  rcases measureWindow_cases s with ⟨-, h⟩ | ⟨-, h⟩ <;> simp [h]

@[simp] theorem periodFrame_loopTiming (dt : Duration) :
    (loopTiming dt s).periodFrame = s.periodFrame := by
  unfold loopTiming
  dsimp only
  split
  · split <;> simp
  · simp

/-! ### Mode entry and the sample loops -/

@[simp] theorem periodFrame_entryMode (key : ModeKey) :
    (entryMode key s).periodFrame = s.periodFrame := by
  unfold entryMode
  split
  · simp
  · split <;> simp
  · simp
  · simp

@[simp] theorem periodFrame_entryCommon : (entryCommon s).periodFrame = s.periodFrame :=
  (periodFrame_setIir _ rfl rfl).trans (by simp)

@[simp] theorem periodFrame_enterMode : (enterMode s).periodFrame = s.periodFrame := by
  unfold enterMode
  split
  · rfl
  · simp [Machine.modeEntry]

/-- A loop leaves alone what each of its iterations leaves alone. -/
theorem periodFrame_runList {α : Type} {f : Nat → α → State → Num × State}
    (hf : ∀ k x t, (f k x t).2.periodFrame = t.periodFrame) (k : Nat) (xs : List α) :
    (runList f k xs s).2.periodFrame = s.periodFrame :=
  runList_keeps (P := fun t => t.periodFrame = s.periodFrame) (fun k x t ht => (hf k x t).trans ht) xs k s rfl

@[simp] theorem periodFrame_runTone : (runTone s).2.periodFrame = s.periodFrame :=
  periodFrame_runList s (fun k x t => by unfold toneSample; dsimp only; split <;> simp) _ _

@[simp] theorem periodFrame_runMeasure (ins : List Num) :
    (runMeasure ins s).2.periodFrame = s.periodFrame :=
  (periodFrame_measureWindow _).trans <|
    periodFrame_runList s (fun k x t => by unfold measureSample; dsimp only; split <;> simp) _ _

@[simp] theorem periodFrame_runHs : (runHs s).2.periodFrame = s.periodFrame :=
  periodFrame_runList s (fun k x t => by simp [hsSample]) _ _

@[simp] theorem periodFrame_decimate (ins : List Num) :
    (decimate ins s).2.periodFrame = s.periodFrame :=
  periodFrame_runList s (fun k x t => by simp) _ _

@[simp] theorem periodFrame_highPass (xs : List Num) :
    (highPass xs s).2.periodFrame = s.periodFrame := by
  unfold highPass
  split
  · exact periodFrame_runList s (fun k x t => by simp) _ _
  · rfl

@[simp] theorem periodFrame_inject (xs : List Num) : (inject xs s).2.periodFrame = s.periodFrame := by
  unfold inject
  split
  · exact periodFrame_runList s (fun k x t => by simp [injectSample]) _ _
  · rfl

@[simp] theorem periodFrame_interpolate (xs : List Num) :
    (interpolate xs s).2.periodFrame = s.periodFrame :=
  periodFrame_runList s (fun k x t => by simp [interpSample]) _ _

@[simp] theorem periodFrame_runMode (ins : List Num) : (runMode ins s).2.periodFrame = s.periodFrame := by
  unfold runMode
  split <;> simp [runDuv]

/-! ### The samples of a period -/

@[simp] theorem zeroStuff_length (f : NumFormat) (n len : Nat) (xs : List Num) :
    (zeroStuff f n len xs).length = len := by simp [zeroStuff]

/-- DUV interpolates back to one sample for each input sample (R246). -/
theorem runDuv_length (ins : List Num) : (runDuv ins s).1.length = s.par.periodLen := by
  have hpar : (inject (highPass (decimate ins s).1 (decimate ins s).2).1
      (highPass (decimate ins s).1 (decimate ins s).2).2).2.par = s.par :=
    State.par_eq_of_periodFrame (by simp)
  simp only [runDuv, interpolate, runList_length, zeroStuff_length, hpar]

/-- Every mode answers `PERIOD_LEN` samples (R236). -/
theorem runMode_length {ins : List Num} (hlen : ins.length = s.par.periodLen) :
    (runMode ins s).1.length = s.par.periodLen := by
  unfold runMode
  split
  · simp [runTone, runList_length]
  · simp [runMeasure, runList_length, hlen]
  · simp [runHs, runList_length]
  · exact runDuv_length s ins

end

/-! ## The operation -/

section
variable {s : State} {n : BitVec 20}

/-- Popping the frame does not change the configuration tests (R248). -/
theorem configFailure_clearDin (p : Port) (s : State) :
    configFailure (s.clearDin p) = configFailure s := by cases p <;> rfl

/-- A legal period of the right size whose configuration fails is refused (R248, R283). -/
theorem exec_procPeriod_of_failure {info : Nat} (hl : legal s.port (.procPeriod n) s = true)
    (hn : n.toNat = s.par.periodLen) (hc : configFailure s = some info) :
    Refuses (.procPeriod n) s (.cfgInvalid info) := by
  change Host.Outcome.next (procPeriodOn s.port n s) = _
  rw [procPeriodOn, accept_of_legal hl]
  simp [hn, configFailure_clearDin, hc]

/-- An accepted period runs on its samples and its duration (R236). -/
theorem exec_procPeriod_of_accepted {ins : List Rat} {dt : Duration}
    (h : Issued .cmd (ins.map .num ++ [.duration dt]) s) (hins : ∀ x ∈ ins, isNum s.cfg.num x = true)
    (hdt : 0 ≤ dt) (hlen : ins.length = n.toNat) (hn : n.toNat = s.par.periodLen)
    (hc : configFailure s = none) :
    exec (.procPeriod n) s = .next (periodRun .cmd ins dt (s.clearDin .cmd)) := by
  have hl : legal .cmd (.procPeriod n) s = true :=
    h.legal rfl rfl rfl (by simpa [rowDin, ← hlen] using kindsMatch_period hdt hins)
  have hsamples : ((ins.map Item.num ++ [Item.duration dt]).take n.toNat).map Item.numVal = ins := by
    simp [← hlen, Function.comp_def, Item.numVal]
  have hduration : (operand (ins.map Item.num ++ [Item.duration dt]) n.toNat).durationVal = dt := by
    simp [operand, ← hlen, Item.durationVal]
  change Host.Outcome.next (procPeriodOn s.port n s) = _
  rw [h.port, procPeriodOn, accept_of_legal hl, h.din]
  simp only [hn, configFailure_clearDin, hc, State.clearDin_par, ne_eq, not_true_eq_false, if_false]
  rw [← hn, hsamples, hduration]

/-- The run of a period pushes what its mode answers, then times the loop (R236). -/
theorem periodRun_eq (ins : List Num) (dt : Duration) (s : State) :
    periodRun .cmd ins dt s = loopTiming dt { (runMode ins (enterMode s)).2 with
      cmd := { s.cmd with dout := s.cmd.dout ++ (runMode ins (enterMode s)).1.map .num } } := by
  have hcmd : (runMode ins (enterMode s)).2.cmd = s.cmd :=
    State.cmd_eq_of_periodFrame (by simp)
  rw [← hcmd]
  rfl

end

/-! ## The sample loops of TONE and HS -/

/-- The states between the iterations of a loop over no input. -/
def loopState (f : Nat → Unit → State → Num × State) (s : State) : Nat → State
  | 0 => s
  | i + 1 => (f i () (loopState f s i)).2

/-- A loop over no input, once the states between its iterations are known: it answers one number from each
and ends in the last. -/
theorem runList_replicate {f : Nat → Unit → State → Num × State} {chain : Nat → State}
    (hchain : ∀ i, chain (i + 1) = (f i () (chain i)).2) : ∀ n k : Nat,
    runList f k (List.replicate n ()) (chain k) =
      ((List.range n).map fun i => (f (k + i) () (chain (k + i))).1, chain (k + n))
  | 0, _ => rfl
  | n + 1, k => by
    have hrest := runList_replicate hchain n (k + 1)
    rw [hchain] at hrest
    simp [List.replicate_succ, runList, hrest, List.range_succ_eq_map, Function.comp_def, Nat.add_assoc,
      Nat.add_comm 1]

/-- The phase after `i` increments (R124). -/
def oscPhase (f : NumFormat) (o : OscRegs) : Nat → Num
  | 0 => o.phase
  | i + 1 => oscAdvance f { o with phase := oscPhase f o i }

/-- The sample TONE mode sends at a phase: the scaled sine, or one of two levels by its sign (R239). -/
def toneValue (c : Config) (r : ParRegs) (phase : Num) : Num :=
  let v := c.sinTab.getD (oscIndex c phase) 0
  if r.toneKind = .analog then numMul c.num r.toneLevel v
  else if 0 ≤ v then r.oneValue.getD 0 else r.zeroValue.getD 0

/-- A sample of TONE mode advances the phase and sends the value there (R239). -/
theorem toneSample_eq (k : Nat) (u : Unit) (s : State) :
    toneSample k u s = (toneValue s.cfg s.par (oscAdvance s.cfg.num s.osc),
      s.setOsc { s.osc with phase := oscAdvance s.cfg.num s.osc }) := by
  unfold toneSample toneValue
  dsimp only [oscNext, oscTable, State.setOsc_par]
  cases s.par.toneKind <;> rfl

/-- A TONE run sends the values at the phases in turn (R239). -/
theorem runTone_eq (s : State) :
    runTone s =
      ((List.range s.par.periodLen).map fun i => toneValue s.cfg s.par (oscPhase s.cfg.num s.osc (i + 1)),
        s.setOsc { s.osc with phase := oscPhase s.cfg.num s.osc s.par.periodLen }) := by
  have hloop := runList_replicate (f := toneSample)
    (chain := fun i => s.setOsc { s.osc with phase := oscPhase s.cfg.num s.osc i })
    (fun i => by rw [toneSample_eq]; rfl) s.par.periodLen 0
  simp only [Nat.zero_add, toneSample_eq] at hloop
  exact hloop

/-- An HS run goes through the states between its samples (R241). -/
theorem runHs_eq (s : State) :
    runHs s = ((List.range s.par.periodLen).map fun i => (modBit (loopState hsSample s i)).1,
      loopState hsSample s s.par.periodLen) := by
  have hloop := runList_replicate (f := hsSample) (chain := loopState hsSample s) (fun _ => rfl)
    s.par.periodLen 0
  simp only [Nat.zero_add] at hloop
  exact hloop

/-- Settles O55: the refusal, the completed period and what it leaves alone, and the two sample loops. -/
theorem periodCompletes : Obligations.PeriodCompletes := by
  refine ⟨fun _ _ _ hl hn hc => exec_procPeriod_of_failure hl hn hc, ?_, ?_, ?_⟩
  · intro s n ins dt h hins hdt hlen hn hc r t
    have hframe : t.periodFrame =
        { s.periodFrame with cmd := { s.cmd with din := [], dout := s.cmd.dout ++ r.1.map .num } } := by
      have hrun : r.2.periodFrame = (s.clearDin .cmd).periodFrame :=
        (periodFrame_runMode _ _).trans (periodFrame_enterMode _)
      rw [periodFrame_loopTiming]
      change (r.2.setCmd _).periodFrame = _
      rw [periodFrame_setCmd, hrun]
      rfl
    refine ⟨?_, ?_, congrArg PeriodFrame.cfg hframe, congrArg PeriodFrame.par hframe,
      congrArg PeriodFrame.port hframe, congrArg PeriodFrame.halted hframe,
      congrFun (congrArg PeriodFrame.coef hframe), congrArg PeriodFrame.nsec hframe,
      congrArg PeriodFrame.coefs hframe⟩
    · rw [exec_procPeriod_of_accepted h hins hdt hlen hn hc, periodRun_eq]
      rfl
    · have hpar : (enterMode (s.clearDin .cmd)).par = s.par :=
        (State.par_eq_of_periodFrame (periodFrame_enterMode _)).trans (s.clearDin_par .cmd)
      exact (runMode_length (enterMode (s.clearDin .cmd)) (by rw [hpar, hlen, hn])).trans
        (congrArg ParRegs.periodLen hpar)
  · intro s ins hmode r index sample
    refine ⟨oscPhase s.cfg.num s.osc, rfl, fun _ => rfl, ?_⟩
    have hsample : ∀ phase, toneValue s.cfg s.par phase = sample phase := fun phase => by
      unfold toneValue
      rw [oscIndex_eq]
      rfl
    simp only [runMode, hmode, runTone_eq, hsample]
    rfl
  · intro s ins hmode
    refine ⟨loopState hsSample s, fun i => (modBit (loopState hsSample s i)).1, rfl, fun _ => ⟨rfl, rfl⟩, ?_⟩
    rw [← runHs_eq]
    simp only [runMode, hmode]

end Sys2Proof.Machine
end

section
/-! The statements of spec 41_fir.md: the partial resets (O30), the impulse response (O32), `FIR.LOADC` (O33)
and the coefficient generators (O34 to O37). As in the tests, `Elab.async` is off so that no elaboration
task holds a thread of its own. -/

namespace Sys2Proof.Machine

set_option Elab.async false

/-! ## Partial resets (O30) -/

section
variable {s : State}

/-- `FIR.RESET` on the CMD port (R132). -/
theorem exec_firReset (h : Issued .cmd [] s) (f : FirInst) :
    exec (.firReset f) s = .next (s.setFir f (s.fir f).zeroed) := by
  change Host.Outcome.next (firResetOn s.port f s) = _
  rw [h.port, firResetOn, h.accept_empty (h.legal rfl rfl rfl rfl)]
  rfl

/-- `IIR.RESET` on the CMD port (R152). -/
theorem exec_iirReset (h : Issued .cmd [] s) : exec .iirReset s = .next (s.setIir s.iir.zeroed) := by
  change Host.Outcome.next (iirResetOn s.port s) = _
  rw [h.port, iirResetOn, h.accept_empty (h.legal rfl rfl rfl rfl)]

/-- `RS.CLEAR` on the FILL port (R167). -/
theorem exec_rsClear (h : Issued .fill [] s) : exec .rsClear s = .next (s.setEnc s.enc.clearParity) := by
  change Host.Outcome.next (rsClearOn s.port s) = _
  rw [h.port, rsClearOn, h.accept_empty (h.legal rfl rfl rfl rfl)]

/-- `ENC.RESET` on the FILL port (R192). -/
theorem exec_encReset (h : Issued .fill [] s) :
    exec .encReset s = .next (s.setEnc { s.enc with rd := .neg }) := by
  change Host.Outcome.next (encResetOn s.port s) = _
  rw [h.port, encResetOn, h.accept_empty (h.legal rfl rfl rfl rfl)]

end

/-- Settles O30: each reset zeroes its registers in the length they have. -/
theorem partialResets : Obligations.PartialResets := by
  refine ⟨fun s f h hlen => ?_, fun s h hlen => ?_, fun s h hlen => ?_, fun s h => exec_encReset h⟩
  · rw [exec_firReset h, FirRegs.zeroed, hlen]
  · rw [exec_iirReset h, IirRegs.zeroed, hlen]
    rfl
  · rw [exec_rsClear h, EncRegs.clearParity, hlen]
    rfl

/-! ## FIR.LOADC (O33) -/

/-- `FIR.LOADC` on the CMD port (R135). -/
theorem exec_firLoadc {s : State} {f : FirInst} {k : BitVec 20} {v : Num} (h : Issued .cmd [.num v] s)
    (hv : isNum s.cfg.num v = true) (hk : k.toNat < s.cfg.firLen f) :
    exec (.firLoadc f k) s = .next ((s.clearDin .cmd).setFir f
      { s.fir f with coef := (s.fir f).coef.set k.toNat (some v) }) := by
  have hl : legal .cmd (.firLoadc f k) s = true :=
    h.legal (decide_eq_true hk) rfl rfl (kindsMatch_singleton_iff.2 ⟨_, rfl, hv⟩)
  change Host.Outcome.next (firLoadcOn s.port f k s) = _
  rw [h.port, firLoadcOn, accept_of_legal hl, h.din]
  simp only [State.clearDin_fir, operand, List.getD_cons_zero, Item.numVal]

/-- Settles O33: the frame popped is the update of `CMD`, the cell that of the filter named. -/
theorem firLoadcResult : Obligations.FirLoadcResult := fun _ _ _ _ h hv hk => exec_firLoadc h hv hk

/-! ## The impulse response (O32) -/

/-- With exact numbers the dot product is a plain sum of products. -/
theorem numDot_exact {c h : List Num} (hlen : c.length = h.length) :
    numDot .exact 0 c h = ∑ i ∈ Finset.range c.length, c.getD i 0 * h.getD i 0 := by
  rw [numDot_eq_foldl _ _ _ _ hlen]
  change (List.range c.length).foldl (fun acc i => acc + c.getD i 0 * h.getD i 0) 0 = _
  rw [← List.foldl_map (f := fun i => c.getD i 0 * h.getD i 0) (g := (· + ·)), ← List.sum_eq_foldl]
  rfl

/-- The history of `len` cells `k` zeros after the unit impulse. -/
def impulseHist (len k : Nat) : List Num :=
  (List.range len).map fun i => if i + k + 1 = len then 1 else 0

theorem impulseHist_length (len k : Nat) : (impulseHist len k).length = len := by simp [impulseHist]

theorem impulseHist_getD {len k i : Nat} (hi : i < len) :
    (impulseHist len k).getD i 0 = if i + k + 1 = len then 1 else 0 := by
  simp [impulseHist, hi]

/-- Advancing a history moves each cell one down and puts the sample in the last. -/
theorem firShift_getD {h : List Num} (x : Num) {i : Nat} (hi : i < h.length) :
    (firShift h x).getD i 0 = if i + 1 = h.length then x else h.getD (i + 1) 0 := by
  unfold firShift
  split
  · rw [List.getD_append_right _ _ _ _ (by simp; omega), List.length_drop,
      show i - (h.length - 1) = 0 by omega, List.getD_cons_zero]
  · rw [List.getD_append _ _ _ _ (by simp; omega)]
    simp [List.getD_eq_getElem?_getD]

/-- A history equals an impulse history when its cells do. -/
theorem eq_impulseHist {h : List Num} {len k : Nat} (hlen : h.length = len)
    (hcell : ∀ i, i < len → h.getD i 0 = if i + k + 1 = len then 1 else 0) : h = impulseHist len k := by
  refine List.ext_getElem (hlen.trans (impulseHist_length len k).symm) fun i h₁ h₂ => ?_
  rw [← List.getD_eq_getElem _ 0 h₁, ← List.getD_eq_getElem _ 0 h₂, hcell i (hlen ▸ h₁),
    impulseHist_getD (hlen ▸ h₁)]

/-- The impulse enters a zero history at its last cell. -/
theorem firShift_zeros {len : Nat} (hlen : 0 < len) :
    firShift (List.replicate len 0) 1 = impulseHist len 0 := by
  refine eq_impulseHist (by simp [firShift]; omega) fun i hi => ?_
  rw [firShift_getD _ (by simpa using hi)]
  simp

/-- A zero moves the impulse one cell down, in the end out of the history. -/
theorem firShift_impulseHist {len : Nat} (hlen : 0 < len) (k : Nat) :
    firShift (impulseHist len k) 0 = impulseHist len (k + 1) := by
  refine eq_impulseHist (by simp [firShift, impulseHist]; omega) fun i hi => ?_
  rw [firShift_getD _ (by simpa [impulseHist_length] using hi), impulseHist_length]
  split
  · rw [if_neg (by omega)]
  · rw [impulseHist_getD (by omega), show i + 1 + k + 1 = i + (k + 1) + 1 by omega]

/-- The tap that the impulse has reached after `k` zeros. -/
def impulseTap (c : List Num) (k : Nat) : Num := if k < c.length then c.getD (c.length - 1 - k) 0 else 0

/-- The dot product with a history of one impulse picks one coefficient (R134). -/
theorem numDot_impulseHist (c : List Num) (k : Nat) :
    numDot .exact 0 c (impulseHist c.length k) = impulseTap c k := by
  rw [numDot_exact (impulseHist_length _ _).symm]
  have hterm : ∀ i ∈ Finset.range c.length, c.getD i 0 * (impulseHist c.length k).getD i 0 =
      if i + k + 1 = c.length then c.getD i 0 else 0 := fun i hi => by
    rw [impulseHist_getD (Finset.mem_range.1 hi), mul_ite, mul_one, mul_zero]
  rw [Finset.sum_congr rfl hterm, impulseTap]
  split
  · rw [Finset.sum_eq_single_of_mem (c.length - 1 - k) (Finset.mem_range.2 (by omega))
      fun i _ hi => if_neg (by omega), if_pos (by omega)]
  · exact Finset.sum_eq_zero fun i _ => if_neg (by omega)

/-- The sample whose history is the impulse `k` zeros on answers the tap there, and each zero after it the
next one. -/
theorem takeFir_impulse {f : FirInst} {c : List Num} (hne : c ≠ []) : ∀ (n k j : Nat) (x : Num) (s : State),
    s.cfg.num = .exact → (s.fir f).coef = c.map some →
    firShift (s.fir f).hist x = impulseHist c.length k →
    (runList (fun _ x s => firStep f x s) j (x :: List.replicate n 0) s).1 =
      (List.range (n + 1)).map fun i => impulseTap c (k + i) := by
  intro n
  induction n with
  | zero =>
    intro k j x s hnum hcoef hshift
    simp [runList, firStep_eq, hnum, FirRegs.values_of_coef hcoef, hshift, numDot_impulseHist]
  | succ n ih =>
    intro k j x s hnum hcoef hshift
    have hrest := ih (k + 1) (j + 1) 0 (firStep f x s).2 (by simpa using hnum)
      (by simpa [firStep_eq] using hcoef)
      (by simpa [firStep_eq, hshift] using firShift_impulseHist (List.length_pos_iff.2 hne) k)
    have hhead : (firStep f x s).1 = impulseTap c k := by
      simp [firStep_eq, hnum, FirRegs.values_of_coef hcoef, hshift, numDot_impulseHist]
    rw [runList, List.replicate_succ, List.range_succ_eq_map, List.map_cons, List.map_map]
    simp [hrest, hhead, Function.comp_def, Nat.add_assoc, Nat.add_comm 1]

/-- Settles O32: the impulse enters at the last tap and moves down one tap with each zero. -/
theorem firImpulseResponse : Obligations.FirImpulseResponse := by
  intro s f c n hnum hcoef hne hhist
  have hshift : firShift (s.fir f).hist 1 = impulseHist c.length 0 := by
    rw [hhist, firShift_zeros (List.length_pos_iff.2 hne)]
  have hrun := takeFir_impulse hne n 0 0 1 s hnum hcoef hshift
  simp only [Nat.zero_add] at hrun
  exact hrun

/-! ## Exact numbers

Where no rounding acts, each operation of `Numbers.lean` is the operation on rationals. -/

@[simp] theorem numAdd_exact (a b : Num) : numAdd .exact a b = a + b := rfl

@[simp] theorem numSub_exact (a b : Num) : numSub .exact a b = a - b := rfl

@[simp] theorem numMul_exact (a b : Num) : numMul .exact a b = a * b := rfl

theorem numDiv_exact {a b : Num} (hb : b ≠ 0) : numDiv .exact a b = a / b := numDiv_of_ne_zero hb

/-! ## The gains (R137)

The SUM gain is a sum, the L2 gain the root of a sum of squares. -/

/-- The sum of squares of an array. -/
def sumSq (t : List Num) : Num := (t.map fun x => x ^ 2).sum

theorem sumSq_nonneg (t : List Num) : 0 ≤ sumSq t :=
  List.sum_nonneg fun x hx => by
    obtain ⟨y, -, rfl⟩ := List.mem_map.1 hx
    exact sq_nonneg y

theorem numSumSq_exact (t : List Num) : numSumSq .exact t = sumSq t := by
  simp only [sumSq, List.sum_eq_foldl, List.foldl_map, pow_two]
  rfl

theorem tapGain_sum_exact (t : List Num) : tapGain .exact .sum t = t.sum := List.sum_eq_foldl.symm

theorem tapGain_l2_exact (t : List Num) : tapGain .exact .l2 t = numSqrt .exact (sumSq t) := by
  rw [← numSumSq_exact]
  rfl

theorem numSqrt_eq_zero_iff (f : NumFormat) {x : Num} (hx : 0 ≤ x) : numSqrt f x = 0 ↔ x = 0 := by
  refine ⟨fun h => ?_, fun h => h ▸ numSqrt_zero f⟩
  by_contra hne
  exact (numSqrt_pos f (lt_of_le_of_ne hx (Ne.symm hne))).ne' h

theorem numSqrt_nonneg (f : NumFormat) {x : Num} (hx : 0 ≤ x) : 0 ≤ numSqrt f x := by
  rcases hx.eq_or_lt with rfl | h
  · exact (numSqrt_zero f).ge
  · exact (numSqrt_pos f h).le

/-- Where the sum of squares has a rational root, the L2 gain squared is that sum. -/
theorem tapGain_l2_sq {t : List Num} (h : ∃ q : Rat, q ^ 2 = sumSq t) :
    tapGain .exact .l2 t ^ 2 = sumSq t := by
  obtain ⟨q, hq⟩ := h
  rw [tapGain_l2_exact, ← hq, ← sq_abs q, numSqrt_sq (abs_nonneg q)]

/-- An array that is not empty is needed for a gain that is not 0. -/
theorem ne_nil_of_tapGain {f : NumFormat} {norm : Norm} {t : List Num} (h : tapGain f norm t ≠ 0) :
    t ≠ [] := by
  rintro rfl
  cases norm
  · exact h rfl
  · exact h (numSqrt_zero f)

/-! ## The properties of R138 -/

/-- The unit sum of a normalisation (R138). -/
def IsNormalised (norm : Norm) (cs : List Num) : Prop :=
  match norm with
  | .sum => cs.sum = 1
  | .l2 => sumSq cs = 1

/-- The properties of R138 of an array of `len` coefficients. -/
def HasTapProperties (norm : Norm) (len : Nat) (cs : List Num) : Prop :=
  (∀ x ∈ cs, |x| ≤ |cs.getD (tapCentre len) 0|) ∧
  (∀ k, k ≤ tapCentre len → tapCentre len + k < len →
    cs.getD (tapCentre len + k) 0 = cs.getD (tapCentre len - k) 0) ∧
  IsNormalised norm cs

theorem tapCentre_lt {len : Nat} (h : 0 < len) : tapCentre len < len := by
  unfold tapCentre
  omega

theorem tapProperties_iff (norm : Norm) (cs : List Num) :
    tapProperties norm cs = true ↔ HasTapProperties norm cs.length cs := by
  have hsym : ((List.range cs.length).all fun k => decide (tapCentre cs.length < k) ||
      decide (cs.length ≤ tapCentre cs.length + k) ||
      decide (cs.getD (tapCentre cs.length + k) 0 = cs.getD (tapCentre cs.length - k) 0)) = true ↔
      ∀ k, k ≤ tapCentre cs.length → tapCentre cs.length + k < cs.length →
        cs.getD (tapCentre cs.length + k) 0 = cs.getD (tapCentre cs.length - k) 0 := by
    simp only [List.all_eq_true, List.mem_range, Bool.or_eq_true, decide_eq_true_eq]
    exact forall_congr' fun k =>
      ⟨fun h hk hlt => (h (by omega)).resolve_left (by omega),
        fun h _ => or_iff_not_imp_left.2 fun hin => h (by omega) (by omega)⟩
  simp only [tapProperties, HasTapProperties, numAbs_eq_abs, Bool.and_eq_true, hsym, and_assoc,
    List.all_eq_true, decide_eq_true_eq]
  cases norm <;> simp only [IsNormalised, sumSq, decide_eq_true_eq, pow_two]

/-- Mapping an array is mapping its entries in ascending index. -/
theorem map_range_getD {α : Type} {cs : List Num} {len : Nat} (h : cs.length = len) (g : Num → α) :
    ((List.range len).map fun k => g (cs.getD k 0)) = cs.map g := by
  subst h
  refine List.ext_getElem (by simp) fun i h₁ h₂ => ?_
  simp [show i < cs.length by simpa using h₂]

theorem tapImpulse_length (len : Nat) : (tapImpulse len).length = len := by simp [tapImpulse]

theorem tapImpulse_getD {len i : Nat} (hi : i < len) :
    (tapImpulse len).getD i 0 = if i = tapCentre len then 1 else 0 := by
  simp [tapImpulse, hi]

/-- The unit impulse is its own array of squares. -/
theorem tapImpulse_sq (len : Nat) : ((tapImpulse len).map fun x => x ^ 2) = tapImpulse len := by
  simp [tapImpulse, Function.comp_def]

theorem tapImpulse_sum {len : Nat} (h : 0 < len) : (tapImpulse len).sum = 1 := by
  change ∑ i ∈ Finset.range len, (if i = tapCentre len then (1 : Rat) else 0) = 1
  rw [Finset.sum_ite_eq', if_pos (Finset.mem_range.2 (tapCentre_lt h))]

/-- The unit impulse has the properties of R138 under either normalisation. -/
theorem tapImpulse_properties (norm : Norm) {len : Nat} (h : 0 < len) :
    HasTapProperties norm len (tapImpulse len) := by
  refine ⟨fun x hx => ?_, fun k hk hlt => ?_, ?_⟩
  · rw [tapImpulse_getD (tapCentre_lt h), if_pos rfl]
    obtain ⟨i, -, rfl⟩ := List.mem_map.1 hx
    split <;> simp
  · rw [tapImpulse_getD hlt, tapImpulse_getD (by omega)]
    exact if_congr (by omega) rfl rfl
  · cases norm
    · exact tapImpulse_sum h
    · exact (congrArg List.sum (tapImpulse_sq len)).trans (tapImpulse_sum h)

theorem tapDraw_length (norm : Norm) (t : List Num) : (tapDraw norm t).length = t.length := by
  unfold tapDraw
  split
  · rename_i h
    exact h.1
  · exact tapImpulse_length _

theorem tapDraw_properties (norm : Norm) {t : List Num} (h : t ≠ []) :
    HasTapProperties norm t.length (tapDraw norm t) := by
  unfold tapDraw
  split
  · rename_i hdraw
    obtain ⟨hlen, hprop⟩ := hdraw
    exact hlen ▸ (tapProperties_iff norm _).1 hprop
  · exact tapImpulse_properties norm (List.length_pos_iff.2 h)

/-! ## The stored coefficients (R136) -/

section
variable (f : NumFormat) (norm : Norm) (t : List Num)

@[simp] theorem tapQuotients_length : (tapQuotients f norm t).length = t.length := by simp [tapQuotients]

theorem tapQuotients_eq : tapQuotients f norm t = (List.range t.length).map fun i =>
    numDiv f (t.getD (t.length - 1 - i) 0) (tapGain f norm t) := by
  refine List.ext_getElem (by simp) fun i h₁ h₂ => ?_
  have hi : i < t.length := by simpa using h₁
  simp [tapQuotients, show t.length - 1 - i < t.length by omega]

variable {f norm t}

/-- The quotients are stored unless, with exact numbers, they fail a property of R138. -/
theorem tapCoefs_eq_quotients (h : f = .exact → HasTapProperties norm t.length (tapQuotients f norm t)) :
    tapCoefs f norm t = tapQuotients f norm t := by
  refine if_neg fun ⟨hf, hfail⟩ => ?_
  have hprop := (tapProperties_iff norm (tapQuotients f norm t)).2 (by simpa using h hf)
  exact absurd (hprop.symm.trans hfail) (by decide)

/-- With exact numbers, what is stored has the properties of R138, drawn or not. -/
theorem tapCoefs_properties (h : t ≠ []) : HasTapProperties norm t.length (tapCoefs .exact norm t) := by
  unfold tapCoefs
  split
  · exact tapDraw_properties norm h
  · rename_i hok
    have hprop : tapProperties norm (tapQuotients .exact norm t) = true := by simpa using hok
    simpa using (tapProperties_iff norm _).1 hprop

end

/-! ## The generators (O34) -/

/-- What a generator with the array `t` does to the state its frame was popped from, `ok` when its arguments
are in the domain (R137, R139). -/
def genOutcome (f : FirInst) (norm : Norm) (ok : Bool) (t : List Num) (s : State) : State :=
  if ok then genStore .cmd f norm t (s.clearDin .cmd) else refuse .cmd (.cfgInvalid 0x132) s

/-- A state after an accepted generator: the frame popped, the cells of one filter written. -/
def genFilled (f : FirInst) (cs : List Num) (s : State) : State :=
  (s.clearDin .cmd).setFir f { s.fir f with coef := cs.map some }

section
variable {s : State} {f : FirInst} {norm : Norm} {a b alpha : Num}

theorem genArgsOk_iff : genArgsOk a b alpha = true ↔ 0 < a ∧ 0 < b ∧ 0 ≤ alpha ∧ alpha ≤ 1 := by
  simp [genArgsOk, and_assoc]

/-- The three numbers of a generator's frame. -/
theorem kindsMatch_gen (ha : isNum s.cfg.num a = true) (hb : isNum s.cfg.num b = true)
    (halpha : isNum s.cfg.num alpha = true) :
    kindsMatch s.cfg.num [.num, .num, .num] [.num a, .num b, .num alpha] = true := by
  simp [kindsMatch, Item.hasKind, ha, hb, halpha]

/-- `FIR.GENRC` on the CMD port (R137). -/
theorem exec_firGenrc (h : Issued .cmd [.num a, .num b, .num alpha] s) (ha : isNum s.cfg.num a = true)
    (hb : isNum s.cfg.num b = true) (halpha : isNum s.cfg.num alpha = true) :
    exec (.firGenrc f norm) s =
      .next (genOutcome f norm (genArgsOk a b alpha) (rcArray s.cfg f a b alpha) s) := by
  have hl : legal .cmd (.firGenrc f norm) s = true := h.legal rfl rfl rfl (kindsMatch_gen ha hb halpha)
  change Host.Outcome.next (firGenrcOn s.port f norm s) = _
  rw [h.port, firGenrcOn, accept_of_legal hl, h.din]
  simp only [refuse_clearDin, State.clearDin_cfg]
  rfl

/-- `FIR.GENRRC` on the CMD port (R139). -/
theorem exec_firGenrrc (h : Issued .cmd [.num a, .num b, .num alpha] s) (ha : isNum s.cfg.num a = true)
    (hb : isNum s.cfg.num b = true) (halpha : isNum s.cfg.num alpha = true) :
    exec (.firGenrrc f norm) s =
      .next (genOutcome f norm (genArgsOk a b alpha) (rrcArray s.cfg f a b alpha) s) := by
  have hl : legal .cmd (.firGenrrc f norm) s = true := h.legal rfl rfl rfl (kindsMatch_gen ha hb halpha)
  change Host.Outcome.next (firGenrrcOn s.port f norm s) = _
  rw [h.port, firGenrrcOn, accept_of_legal hl, h.din]
  simp only [refuse_clearDin, State.clearDin_cfg]
  rfl

variable {ok : Bool} {t : List Num}

/-- Arguments outside the domain and a zero gain refuse the command (R137, R139, R283). -/
theorem genOutcome_refused (h : ok = false ∨ tapGain s.cfg.num norm t = 0) :
    genOutcome f norm ok t s = refuse .cmd (.cfgInvalid 0x132) s := by
  unfold genOutcome genStore
  split
  · rename_i hok
    rw [if_pos (by simpa [hok] using h), refuse_clearDin]
  · rfl

/-- Otherwise every cell is written (R136). -/
theorem genOutcome_filled (hok : ok = true) (hg : tapGain s.cfg.num norm t ≠ 0) :
    genOutcome f norm ok t s = genFilled f (tapCoefs s.cfg.num norm t) s := by
  rw [genOutcome, if_pos hok, genStore, if_neg (by simpa using hg)]
  simp only [State.clearDin_fir, State.clearDin_cfg, genFilled]

end

/-- What O34 says of a generator: when it is refused, and what it stores when it is not. -/
def GenResult (s : State) (f : FirInst) (norm : Norm) (ok : Prop) (i : Instr) (t : List Num) : Prop :=
  let g := tapGain s.cfg.num norm t
  let quotients := (List.range (s.cfg.firLen f)).map fun i =>
    numDiv s.cfg.num (t.getD (s.cfg.firLen f - 1 - i) 0) g
  (¬ ok ∨ g = 0 → Refuses i s (.cfgInvalid 0x132)) ∧
  (ok → g ≠ 0 → ∃ cs, exec i s = .next (genFilled f cs s) ∧ cs.length = s.cfg.firLen f ∧
    ((s.cfg.num = .exact → HasTapProperties norm (s.cfg.firLen f) quotients) → cs = quotients) ∧
    (s.cfg.num = .exact → HasTapProperties norm (s.cfg.firLen f) cs))

/-- A command with a generator's outcome has the results of a generator. -/
theorem genResult_of_exec {s : State} {f : FirInst} {norm : Norm} {ok : Bool} {i : Instr} {t : List Num}
    (hport : s.port = .cmd) (he : exec i s = .next (genOutcome f norm ok t s))
    (hlen : t.length = s.cfg.firLen f) : GenResult s f norm (ok = true) i t := by
  refine ⟨fun h => ?_, fun hok hg => ⟨tapCoefs s.cfg.num norm t, ?_, ?_, fun h => ?_, fun hn => ?_⟩⟩
  · rw [Refuses, he, hport, genOutcome_refused (by simpa using h)]
  · rw [he, genOutcome_filled hok hg]
  · rw [tapCoefs_length, hlen]
  · rw [← hlen, ← tapQuotients_eq] at h ⊢
    exact tapCoefs_eq_quotients h
  · rw [hn, ← hlen]
    exact tapCoefs_properties (ne_nil_of_tapGain hg)

theorem rcArray_length (c : Config) (f : FirInst) (fs fc alpha : Num) :
    (rcArray c f fs fc alpha).length = c.firLen f := by simp [rcArray]

theorem rrcArray_length (c : Config) (f : FirInst) (fs rs alpha : Num) :
    (rrcArray c f fs rs alpha).length = c.firLen f := by simp [rrcArray]

/-- Both generators, with the domain written out. -/
theorem gen_results {s : State} {f : FirInst} {norm : Norm} {a b alpha : Num}
    (h : Issued .cmd [.num a, .num b, .num alpha] s) (ha : isNum s.cfg.num a = true)
    (hb : isNum s.cfg.num b = true) (halpha : isNum s.cfg.num alpha = true) :
    GenResult s f norm (0 < a ∧ 0 < b ∧ 0 ≤ alpha ∧ alpha ≤ 1) (.firGenrc f norm)
      (rcArray s.cfg f a b alpha) ∧
    GenResult s f norm (0 < a ∧ 0 < b ∧ 0 ≤ alpha ∧ alpha ≤ 1) (.firGenrrc f norm)
      (rrcArray s.cfg f a b alpha) := by
  rw [← genArgsOk_iff]
  exact ⟨genResult_of_exec h.port (exec_firGenrc h ha hb halpha) (rcArray_length _ _ _ _ _),
    genResult_of_exec h.port (exec_firGenrrc h ha hb halpha) (rrcArray_length _ _ _ _ _)⟩

/-- Settles O34: both generators store their array in one way. -/
theorem firGenerators : Obligations.FirGenerators := fun _ _ _ _ _ _ h ha hb halpha =>
  gen_results h ha hb halpha

/-! ## Generated coefficients (O37) -/

/-- A refusal is an event, so it changes the log (R13). -/
theorem refuse_flt_ne (p : Port) (e : Event) (s : State) : (refuse p e s).flt ≠ s.flt := by
  rw [refuse_flt]
  intro h
  have hevt : s.flt.evt ++ [e] = s.flt.evt := congrArg FaultRegs.evt h
  simp at hevt

/-- A generator that changed no event register stored its coefficients. -/
theorem GenResult.filled {s t : State} {f : FirInst} {norm : Norm} {ok : Prop} {i : Instr} {u : List Num}
    (h : GenResult s f norm ok i u) (he : exec i s = .next t) (hflt : t.flt = s.flt) :
    ∃ cs, t = genFilled f cs s ∧ cs.length = s.cfg.firLen f ∧
      (s.cfg.num = .exact → HasTapProperties norm (s.cfg.firLen f) cs) := by
  obtain ⟨hrefused, hfilled⟩ := h
  have hnext : ∀ {t'}, exec i s = .next t' → t = t' := fun h => by
    rw [he] at h
    exact Host.Outcome.next.inj h
  by_cases hbad : ¬ ok ∨ tapGain s.cfg.num norm u = 0
  · rw [hnext (hrefused hbad)] at hflt
    exact absurd hflt (refuse_flt_ne _ _ _)
  · rw [not_or, not_not] at hbad
    obtain ⟨cs, hexec, hlen, -, hprop⟩ := hfilled hbad.1 hbad.2
    exact ⟨cs, hnext hexec, hlen, hprop⟩

theorem genFilled_coef (f : FirInst) (cs : List Num) (s : State) :
    ((genFilled f cs s).fir f).coef = cs.map some := by simp [genFilled]

/-- Settles O37: what is stored has the properties of R138, entry by entry. -/
theorem generatedCoefficients : Obligations.GeneratedCoefficients := by
  intro s t f norm i a b alpha hi h hnum hpos he hflt
  have hisNum : ∀ q : Rat, isNum s.cfg.num q = true := fun q => by rw [hnum]; rfl
  obtain ⟨cs, rfl, hlen, hprop⟩ : ∃ cs, t = genFilled f cs s ∧ cs.length = s.cfg.firLen f ∧
      (s.cfg.num = .exact → HasTapProperties norm (s.cfg.firLen f) cs) := by
    obtain ⟨hrc, hrrc⟩ := gen_results (f := f) (norm := norm) h (hisNum a) (hisNum b) (hisNum alpha)
    rcases hi with rfl | rfl
    · exact hrc.filled he hflt
    · exact hrrc.filled he hflt
  obtain ⟨hmax, hsym, hsum⟩ := hprop hnum
  have hvalues : ((genFilled f cs s).fir f).values = cs :=
    FirRegs.values_of_coef (genFilled_coef f cs s)
  simp only [hvalues]
  refine ⟨?_, fun k hk => ?_, hsym, ?_, ?_⟩
  · rw [genFilled_coef, map_range_getD hlen]
  · have hk' : k < cs.length := hlen ▸ hk
    rw [List.getD_eq_getElem cs 0 hk']
    exact hmax _ (List.getElem_mem hk')
  · rintro rfl
    rw [map_range_getD hlen fun x => x, List.map_id']
    exact hsum
  · rintro rfl
    rw [map_range_getD hlen fun x => x ^ 2]
    exact hsum

/-! ## Tap times -/

/-- The time of a tap as a number (R136). -/
def tapTimeRat (len i : Nat) : Rat := (i : Rat) - (((len - 1) / 2 : Nat) : Rat)

theorem tapTime_cast (len i : Nat) : ((tapTime len i : Int) : Rat) = tapTimeRat len i := by
  simp only [tapTime, tapTimeRat, Int.cast_sub, Int.cast_natCast]

/-- The tap at the middle of the array has time 0. -/
theorem tapTimeRat_centre (len : Nat) : tapTimeRat len ((len - 1) / 2) = 0 := sub_self _

/-- Time-reversed indices at equal distances from the centre have opposite times. -/
theorem tapTimeRat_reversed {len k : Nat} (hk : k ≤ tapCentre len) (hlt : tapCentre len + k < len) :
    tapTimeRat len (len - 1 - (tapCentre len + k)) = -(k : Rat) ∧
    tapTimeRat len (len - 1 - (tapCentre len - k)) = k := by
  have hc : tapCentre len + (len - 1) / 2 = len - 1 := by
    unfold tapCentre
    omega
  have hlow : len - 1 - (tapCentre len + k) + k = (len - 1) / 2 := by omega
  have hhigh : len - 1 - (tapCentre len - k) = (len - 1) / 2 + k := by omega
  unfold tapTimeRat
  constructor
  · rw [← hlow]
    push_cast
    ring
  · rw [hhigh]
    push_cast
    ring

/-- An array of taps given by a formula in the time. -/
theorem tapArray_eq {len : Nat} {tap : Int → Num} {formula : Rat → Rat}
    (h : ∀ n : Int, tap n = formula n) :
    tapArray len tap = (List.range len).map fun i => formula (tapTimeRat len i) :=
  List.map_congr_left fun i _ => by rw [h, tapTime_cast]

/-- Both formulas test their singular points where `1 - (r·x)²`, a factor of their divisor, is 0. -/
theorem one_sub_sq_ne_zero {alpha r x : Rat} (halpha : 0 ≤ alpha) (hr : 0 ≤ r) (hr0 : alpha = 0 → r = 0)
    (hreg : ¬ (0 < alpha ∧ r * |x| = 1)) : 1 - (r * x) ^ 2 ≠ 0 := by
  intro h
  have habs : |r * x| = 1 := by
    rw [← abs_one, ← sq_eq_sq_iff_abs_eq_abs]
    linarith
  rw [abs_mul, abs_of_nonneg hr] at habs
  refine hreg ⟨lt_of_le_of_ne halpha fun h0 => ?_, habs⟩
  simp [hr0 h0.symm] at habs

/-! ## The raised-cosine formula (R137) -/

/-- The closed formula of R137 with exact numbers: the tap at time `n` for the cut-off `fc`. -/
def rcFormula (fc alpha n : Rat) : Rat :=
  if n = 0 then 2 * numPi .exact * fc
  else if 0 < alpha ∧ 2 * alpha * fc * |n| = 1 then
    numPi .exact / 4 * numSin .exact (2 * numPi .exact * fc * n) / n
  else numSin .exact (2 * numPi .exact * fc * n) / n * numCos .exact (alpha * numPi .exact * fc * n) /
    (1 - (2 * alpha * fc * n) ^ 2)

section
variable {fc alpha n : Rat}

/-- Outside the singular points the formula divides by a number other than 0. -/
theorem rc_divisor_ne_zero (hfc : 0 < fc) (halpha : 0 ≤ alpha)
    (hreg : ¬ (0 < alpha ∧ 2 * alpha * fc * |n| = 1)) : 1 - (2 * alpha * fc * n) ^ 2 ≠ 0 := 
  one_sub_sq_ne_zero halpha (by positivity) (fun h => by simp [h]) hreg

theorem rcTap_exact (hfc : 0 < fc) (halpha : 0 ≤ alpha) (n : Int) :
    rcTap .exact fc alpha n = rcFormula fc alpha n := by
  unfold rcTap rcFormula rcAngle
  simp only [numAbs_eq_abs, Int.cast_eq_zero, numMul_exact, numSub_exact, numDiv_exact four_ne_zero]
  split
  · rfl
  · rename_i hn
    have hn' : (n : Rat) ≠ 0 := Int.cast_ne_zero.2 hn
    split
    · rw [numDiv_exact hn']
    · rename_i hreg
      rw [numDiv_exact hn', ← pow_two, numDiv_exact (rc_divisor_ne_zero hfc halpha hreg)]

/-- The formula is even: its sine and its divisor are odd. -/
theorem rcFormula_neg (fc alpha n : Rat) : rcFormula fc alpha (-n) = rcFormula fc alpha n := by
  unfold rcFormula
  simp only [neg_eq_zero, abs_neg, mul_neg, numSin_neg, numCos_neg, neg_div_neg_eq, neg_sq]

theorem rcFormula_zero (fc alpha : Rat) : rcFormula fc alpha 0 = 2 * numPi .exact * fc := if_pos rfl

theorem rcFormula_zero_pos (hfc : 0 < fc) (alpha : Rat) : 0 < rcFormula fc alpha 0 := by
  rw [rcFormula_zero]
  have := numPi_pos .exact
  positivity

/-- The sine over the time is at most the centre tap, by `|sin x| ≤ |x|`. -/
theorem abs_sin_div_le (hfc : 0 < fc) (hn : n ≠ 0) :
    |numSin .exact (2 * numPi .exact * fc * n) / n| ≤ 2 * numPi .exact * fc := by
  have hpi := numPi_pos .exact
  rw [abs_div, div_le_iff₀ (abs_pos.2 hn)]
  calc |numSin .exact (2 * numPi .exact * fc * n)|
      ≤ |2 * numPi .exact * fc * n| := (abs_numSin_le _).trans (min_le_right _ _)
    _ = 2 * numPi .exact * fc * |n| := by rw [abs_mul, abs_of_pos (by positivity)]

/-- The bound of the cosine is the divisor of the formula. -/
theorem abs_cos_le_divisor (fc alpha n : Rat) :
    |numCos .exact (alpha * numPi .exact * fc * n)| ≤ |1 - (2 * alpha * fc * n) ^ 2| := by
  have hpi := (numPi_pos .exact).ne'
  have harg : 2 * (alpha * numPi .exact * fc * n) / numPi .exact = 2 * alpha * fc * n := by
    field_simp
  simpa only [harg] using (abs_numCos_le (alpha * numPi .exact * fc * n)).trans (min_le_right _ _)

/-- No tap exceeds the centre one in magnitude (R138). -/
theorem abs_rcFormula_le (hfc : 0 < fc) (halpha : 0 ≤ alpha) (n : Rat) :
    |rcFormula fc alpha n| ≤ |rcFormula fc alpha 0| := by
  obtain ⟨hpi, hpi4⟩ := numPi_bounds .exact
  rw [rcFormula_zero, abs_of_nonneg (by positivity : (0 : Rat) ≤ 2 * numPi .exact * fc)]
  unfold rcFormula
  split
  · rw [abs_of_nonneg (by positivity)]
  · rename_i hn
    have hsin := abs_sin_div_le (n := n) hfc hn
    split
    · rw [mul_div_assoc, abs_mul, abs_of_nonneg (by positivity)]
      exact (mul_le_of_le_one_left (abs_nonneg _) (by linarith)).trans hsin
    · rename_i hreg
      have hdiv := abs_pos.2 (rc_divisor_ne_zero hfc halpha hreg)
      rw [abs_div, abs_mul, div_le_iff₀ hdiv]
      exact mul_le_mul hsin (abs_cos_le_divisor fc alpha n) (abs_nonneg _) (by positivity)

end

/-! ## The raised-cosine array (O35) -/

theorem rcArray_exact {c : Config} {fs fc alpha : Rat} (hnum : c.num = .exact) (f : FirInst)
    (hfs : 0 < fs) (hfc : 0 < fc) (halpha : 0 ≤ alpha) : rcArray c f fs fc alpha =
      (List.range (c.firLen f)).map fun i => rcFormula (fc / fs) alpha (tapTimeRat (c.firLen f) i) := by
  unfold rcArray
  rw [hnum, numDiv_exact hfs.ne']
  exact tapArray_eq fun n => rcTap_exact (div_pos hfc hfs) halpha n

/-- An array with an entry other than 0 has a positive L2 gain. -/
theorem tapGain_l2_pos {t : List Num} {x : Num} (hmem : x ∈ t) (hx : x ≠ 0) : 0 < tapGain .exact .l2 t := by
  rw [tapGain_l2_exact]
  refine numSqrt_pos _ (lt_of_lt_of_le (by positivity : 0 < x ^ 2) ?_)
  refine List.single_le_sum (fun y hy => ?_) _ (List.mem_map.2 ⟨x, hmem, rfl⟩)
  obtain ⟨z, -, rfl⟩ := List.mem_map.1 hy
  exact sq_nonneg z

/-- With a gain that is the sum, or squared the sum of squares, the quotients are normalised. -/
theorem tapQuotients_normalised {norm : Norm} {t : List Num} (hg : tapGain .exact norm t ≠ 0)
    (hroot : norm = .l2 → ∃ q : Rat, q ^ 2 = sumSq t) :
    IsNormalised norm (tapQuotients .exact norm t) := by
  have hq : tapQuotients .exact norm t = t.reverse.map fun v => v / tapGain .exact norm t :=
    List.map_congr_left fun v _ => numDiv_exact hg
  have hsum : ∀ (g : Num → Num) (d : Num), (t.reverse.map fun v => g v / d).sum = (t.map g).sum / d :=
    fun g d => by
      simp only [div_eq_mul_inv, List.sum_map_mul_right, List.map_reverse, List.sum_reverse]
  cases norm with
  | sum =>
    change (tapQuotients .exact .sum t).sum = 1
    rw [hq, hsum fun v => v, List.map_id', ← tapGain_sum_exact, div_self hg]
  | l2 =>
    have hsq := tapGain_l2_sq (hroot rfl)
    have hne : sumSq t ≠ 0 := hsq ▸ pow_ne_zero 2 hg
    change sumSq (tapQuotients .exact .l2 t) = 1
    rw [hq, sumSq, List.map_map]
    simp only [Function.comp_def, div_pow]
    rw [hsum fun v => v ^ 2, hsq]
    exact div_self hne

/-- The quotients of a tap formula, index by index. -/
theorem tapQuotients_formula {norm : Norm} {len : Nat} (formula : Rat → Rat) {t : List Num}
    (ht : t = (List.range len).map fun i => formula (tapTimeRat len i)) (hg : tapGain .exact norm t ≠ 0) :
    tapQuotients .exact norm t = (List.range len).map fun i =>
      formula (tapTimeRat len (len - 1 - i)) / tapGain .exact norm t := by
  have hlen : t.length = len := by simp [ht]
  rw [tapQuotients_eq, hlen]
  refine List.map_congr_left fun i hi => ?_
  have hi' : len - 1 - i < len := by
    have := List.mem_range.1 hi
    omega
  rw [numDiv_exact hg]
  congr 1
  simp [ht, hi']

/-- The quotients of an even formula whose largest value is at time 0 have the properties of R138 as soon as
they are normalised. -/
theorem tapQuotients_properties {norm : Norm} {len : Nat} {formula : Rat → Rat} {t : List Num}
    (ht : t = (List.range len).map fun i => formula (tapTimeRat len i)) (hg : tapGain .exact norm t ≠ 0)
    (hroot : norm = .l2 → ∃ q : Rat, q ^ 2 = sumSq t) (heven : ∀ n, formula (-n) = formula n)
    (hmax : ∀ n, |formula n| ≤ |formula 0|) : HasTapProperties norm len (tapQuotients .exact norm t) := by
  have hq := tapQuotients_formula formula ht hg
  have hcell : ∀ {k}, k < len → (tapQuotients .exact norm t).getD k 0 =
      formula (tapTimeRat len (len - 1 - k)) / tapGain .exact norm t := fun hk => by
    simp [hq, hk]
  refine ⟨fun x hx => ?_, fun k hk hlt => ?_, tapQuotients_normalised hg hroot⟩
  · rw [hq] at hx
    obtain ⟨i, hi, rfl⟩ := List.mem_map.1 hx
    have hpos : 0 < len := (Nat.zero_le i).trans_lt (List.mem_range.1 hi)
    have hcentre : tapTimeRat len (len - 1 - tapCentre len) = 0 := by
      simpa using (tapTimeRat_reversed (Nat.zero_le _) (tapCentre_lt hpos)).2
    rw [hcell (tapCentre_lt hpos), hcentre, abs_div, abs_div]
    exact div_le_div_of_nonneg_right (hmax _) (abs_nonneg _)
  · obtain ⟨hlow, hhigh⟩ := tapTimeRat_reversed hk hlt
    rw [hcell hlt, hcell (by omega), hlow, hhigh, heven]

/-- Settles O35: the array is even with its largest tap at the centre, so its quotients are stored when they
are normalised. -/
theorem raisedCosineFormula : Obligations.RaisedCosineFormula := by
  refine ⟨fun u => ⟨tapGain_sum_exact u, ?_, ?_, ?_⟩, ?_⟩
  · rw [tapGain_l2_exact]
    exact numSqrt_nonneg _ (sumSq_nonneg u)
  · rw [tapGain_l2_exact]
    exact numSqrt_eq_zero_iff _ (sumSq_nonneg u)
  · intro q hq hsq
    rw [tapGain_l2_exact, sumSq, ← hsq, numSqrt_sq hq]
  · intro c f fs fc alpha hnum hfs hfc halpha L pi sin cos Fc t array
    have hFc : 0 < Fc := div_pos hfc hfs
    have harray : array = (List.range L).map fun i => rcFormula Fc alpha (tapTimeRat L i) :=
      rcArray_exact hnum f hfs hfc halpha
    refine ⟨harray, fun hL => ?_, fun norm hg hroot => ?_⟩
    · refine tapGain_l2_pos (x := rcFormula Fc alpha 0) ?_ (rcFormula_zero_pos hFc alpha).ne'
      rw [harray]
      exact List.mem_map.2 ⟨(L - 1) / 2, List.mem_range.2 (by omega), by rw [tapTimeRat_centre]⟩
    · have hprop := tapQuotients_properties harray hg hroot (rcFormula_neg Fc alpha)
        (abs_rcFormula_le hFc halpha)
      have hlen : array.length = L := rcArray_length c f fs fc alpha
      rw [tapCoefs_eq_quotients fun _ => hlen.symm ▸ hprop]
      exact tapQuotients_formula (rcFormula Fc alpha) harray hg

/-! ## The root-raised-cosine formula (O36) -/

/-- The limit of R139's formula at its singular points, with exact numbers. -/
def rrcLimit (alpha : Rat) : Rat :=
  numDiv .exact alpha (numSqrt .exact 2) *
    ((1 + 2 / numPi .exact) * numSin .exact (numPi .exact / (4 * alpha)) +
      (1 - 2 / numPi .exact) * numCos .exact (numPi .exact / (4 * alpha)))

/-- The closed formula of R139 with exact numbers: the tap at time `n` for `ts` samples per symbol. -/
def rrcFormula (ts alpha n : Rat) : Rat :=
  if n = 0 then 1 - alpha + 4 * alpha / numPi .exact
  else if 0 < alpha ∧ 4 * alpha * |n / ts| = 1 then rrcLimit alpha
  else
    (numSin .exact (numPi .exact * (n / ts) * (1 - alpha)) +
        4 * alpha * (n / ts) * numCos .exact (numPi .exact * (n / ts) * (1 + alpha))) /
      (numPi .exact * (n / ts) * (1 - (4 * alpha * (n / ts)) ^ 2))

/-- Outside its singular points the formula divides by a number other than 0. -/
theorem rrc_divisor_ne_zero {alpha x : Rat} (halpha : 0 ≤ alpha) (hx : x ≠ 0)
    (hreg : ¬ (0 < alpha ∧ 4 * alpha * |x| = 1)) :
    numPi .exact * x * (1 - (4 * alpha * x) ^ 2) ≠ 0 :=
  mul_ne_zero (mul_ne_zero (numPi_pos .exact).ne' hx)
    (one_sub_sq_ne_zero halpha (by positivity) (fun h => by simp [h]) hreg)

theorem rrcSingular_exact {alpha : Rat} (halpha : 0 < alpha) :
    rrcSingular .exact alpha = rrcLimit alpha := by
  have hangle : 4 * alpha ≠ 0 := (mul_pos four_pos halpha).ne'
  simp only [rrcSingular, rrcLimit, numMul_exact, numAdd_exact, numSub_exact, numDiv_exact hangle,
    numDiv_exact (numPi_pos .exact).ne']

theorem rrcTap_exact {ts alpha : Rat} (hts : 0 < ts) (halpha : 0 ≤ alpha) (n : Int) :
    rrcTap .exact ts alpha n = rrcFormula ts alpha n := by
  unfold rrcTap rrcFormula
  simp only [numAbs_eq_abs, Int.cast_eq_zero, numMul_exact, numSub_exact, numAdd_exact,
    numDiv_exact hts.ne', numDiv_exact (numPi_pos .exact).ne']
  split
  · rfl
  · rename_i hn
    have hx : (n : Rat) / ts ≠ 0 := div_ne_zero (Int.cast_ne_zero.2 hn) hts.ne'
    split
    · rename_i hsing
      exact rrcSingular_exact hsing.1
    · rename_i hreg
      rw [← pow_two, numDiv_exact (rrc_divisor_ne_zero halpha hx hreg)]

/-- Settles O36: every divisor of the formula is other than 0. -/
theorem rootRaisedCosineFormula : Obligations.RootRaisedCosineFormula := by
  intro c f fs rs alpha hnum hfs hrs halpha L pi sin cos Ts t
  have hTs : numDiv c.num fs rs = Ts := by rw [hnum, numDiv_exact hrs.ne']
  unfold rrcArray
  rw [hTs, hnum]
  exact tapArray_eq fun n => rrcTap_exact (div_pos hfs hrs) halpha n

end Sys2Proof.Machine
end

section
/-! The statement of spec 42_iir.md: `IIR.STEP` (O38). The sections' values are defined by their index, and the
cascade, which recurses along the list of sections, is shown to give them. As in the tests, `Elab.async` is off
so that no elaboration task holds a thread of its own. -/

namespace Sys2Proof.Machine

set_option Elab.async false

/-! ## When a step is refused (R153) -/

theorem IirCoefs.written_iff (c : IirCoefs) : c.written = true ↔
    c.a0 ≠ none ∧ c.a1 ≠ none ∧ c.a2 ≠ none ∧ c.b0 ≠ none ∧ c.b1 ≠ none ∧ c.b2 ≠ none := by
  simp only [written, Bool.and_eq_true, Option.isSome_iff_ne_none, and_assoc]

section
variable {r : IirRegs} {n : Nat}

theorem IirRegs.active_of_nsec (hn : r.nsec = some n) : r.active = r.coefs.take n := by
  rw [active, hn, Option.getD_some]

theorem IirRegs.check_of_nsec_none (hn : r.nsec = none) : r.check = some 0x110 := by
  simp [check, hn]

theorem IirRegs.check_of_unwritten (hn : r.nsec = some n)
    (h : ∃ c ∈ r.coefs.take n, ¬ c.written = true) : r.check = some 0x110 := by
  have hall : (r.coefs.take n).all IirCoefs.written = false := by simpa [List.all_eq_false] using h
  simp [check, active_of_nsec hn, hall]

/-- With everything written, `check` is the test of `a0` alone. -/
theorem IirRegs.check_of_written (hn : r.nsec = some n) (h : ∀ c ∈ r.coefs.take n, c.written = true) :
    r.check = if ∀ c ∈ r.coefs.take n, c.a0 = some 1 then none else some 0x111 := by
  have hall : (r.coefs.take n).all IirCoefs.written = true := List.all_eq_true.2 h
  simp [check, active_of_nsec hn, hn, hall]

end

/-! ## The command (R153) -/

section
variable {s : State} {x : Num}

theorem legal_iirStep (h : Issued .cmd [.num x] s) (hx : isNum s.cfg.num x = true) :
    legal .cmd .iirStep s = true :=
  h.legal rfl rfl rfl (kindsMatch_singleton_iff.2 ⟨_, rfl, hx⟩)

/-- A failed configuration test refuses the command (R153, R283). -/
theorem exec_iirStep_of_failure (h : Issued .cmd [.num x] s) (hx : isNum s.cfg.num x = true)
    {info : Nat} (hc : s.iir.check = some info) : Refuses .iirStep s (.cfgInvalid info) := by
  change Host.Outcome.next (iirStepOn s.port s) = _
  rw [h.port, iirStepOn, accept_of_legal (legal_iirStep h hx)]
  simp only [State.clearDin_iir, hc, refuse_clearDin]

/-- An accepted command runs the step with its frame popped, and pushes the output (R153). -/
theorem exec_iirStep_of_accepted (h : Issued .cmd [.num x] s) (hx : isNum s.cfg.num x = true)
    (hc : s.iir.check = none) :
    exec .iirStep s = .next ((iirStep x (s.clearDin .cmd)).2.push .cmd
      (.num (iirStep x (s.clearDin .cmd)).1)) := by
  change Host.Outcome.next (iirStepOn s.port s) = _
  rw [h.port, iirStepOn, accept_of_legal (legal_iirStep h hx), h.din]
  simp only [State.clearDin_iir, hc, operand, List.getD_cons_zero, Item.numVal]

end

/-! ## The cascade by index (R151, R153) -/

theorem numMax_eq_max (a b : Num) : numMax a b = max a b := by
  unfold numMax
  split
  · exact (max_eq_right (le_of_lt ‹_›)).symm
  · exact (max_eq_left (not_lt.1 ‹_›)).symm

/-- One more section at the end takes the output and the tracker of the sections before it. -/
theorem iirCascade_concat (f : NumFormat) (c : IirCoefs) (r : IirSection) :
    ∀ (l : List (IirCoefs × IirSection)) (v m : Num),
      let before := iirCascade f l v m
      let ct := iirCentre f c r before.2.1
      let y := iirOut f c r ct
      iirCascade f (l ++ [(c, r)]) v m =
        (before.1 ++ [⟨before.2.1, r.x1, y, r.y1⟩], y, max (max before.2.2 |ct|) |y|)
  | [], _, _ => by simp [iirCascade, numMax_eq_max, numAbs_eq_abs]
  | (_, _) :: rest, _, _ => by
    simp only [List.cons_append, iirCascade, iirCascade_concat f c r rest]

section
variable (f : NumFormat) (co : Nat → IirCoefs) (old : Nat → IirSection) (x : Num)

/-- The input of section `k`: `x` for the first, then the output of the section before. -/
def iirValue : Nat → Num
  | 0 => x
  | k + 1 => iirOut f (co k) (old k) (iirCentre f (co k) (old k) (iirValue k))

/-- The centre value of section `k`. -/
def iirCentreAt (k : Nat) : Num := iirCentre f (co k) (old k) (iirValue f co old x k)

/-- The registers of section `k` after it ran. -/
def iirShifted (k : Nat) : IirSection :=
  ⟨iirValue f co old x k, (old k).x1, iirValue f co old x (k + 1), (old k).y1⟩

/-- The tracker after the first `n` sections, from `m`. -/
def iirPeak (m : Num) (n : Nat) : Num :=
  (List.range n).foldl
    (fun m k => max (max m |iirCentreAt f co old x k|) |iirValue f co old x (k + 1)|) m

/-- The cascade over `n` sections, given by their index. -/
theorem iirCascade_range (m : Num) : ∀ n,
    iirCascade f ((List.range n).map fun k => (co k, old k)) x m =
      ((List.range n).map (iirShifted f co old x), iirValue f co old x n, iirPeak f co old x m n)
  | 0 => rfl
  | n + 1 => by
    simp only [List.range_succ, List.map_append, List.map_singleton, iirCascade_concat,
      iirCascade_range m n, iirPeak, List.foldl_append]
    rfl

end

/-- The first entries of a list, by their index. -/
theorem take_eq_map_range_getD {α : Type} (l : List α) (d : α) {n : Nat} (h : n ≤ l.length) :
    l.take n = (List.range n).map fun k => l.getD k d := by
  refine List.ext_getElem (by simp [h]) fun i h₁ _ => ?_
  have hi : i < l.length := h₁.trans_le (List.length_take_le' n l)
  simp [hi]

/-- The first entries of a list given by its index, put before the rest of it. -/
theorem map_range_append_drop {α : Type} (g old : Nat → α) {n len : Nat} (h : n ≤ len) :
    (List.range n).map g ++ ((List.range len).map old).drop n =
      (List.range len).map fun k => if k < n then g k else old k := by
  refine List.ext_getElem (by simp [h]) fun i _ _ => ?_
  rcases lt_or_ge i n with hi | hi
  · simp [hi]
  · simp [List.getElem_append_right, hi, Nat.not_lt.2 hi]

/-- The run over the first `n` sections: the others keep their registers (R153). -/
theorem iirRun_eq (f : NumFormat) {r : IirRegs} (x : Num) {n len : Nat} {old : Nat → IirSection}
    (hnsec : r.nsec = some n) (hregs : r.regs = (List.range len).map old) (hn : n ≤ r.coefs.length)
    (hlen : n ≤ len) :
    let co k := r.coefs.getD k .reset
    iirRun f r x = (iirValue f co old x n,
      { r with
        regs := (List.range len).map fun k => if k < n then iirShifted f co old x k else old k
        maxReg := iirPeak f co old x r.maxReg n }) := by
  intro co
  have hzip : r.active.zip r.regs = (List.range n).map fun k => (co k, old k) := by
    rw [IirRegs.active_of_nsec hnsec, hregs]
    refine List.ext_getElem (by simp [hn, hlen]) fun i hi _ => ?_
    obtain ⟨-, hi, -⟩ : i < n ∧ i < r.coefs.length ∧ i < len := by simpa using hi
    simp [co, hi]
  simp only [iirRun, hzip, iirCascade_range, List.length_map, List.length_range]
  rw [hregs, map_range_append_drop _ _ hlen]

/-! ## The guard (R153) -/

/-- The registers that section `k` of a step reads: zero when the guard fires. -/
def iirOld (s : State) (k : Nat) : IirSection :=
  if s.cfg.iirLimit < s.iir.maxReg then ⟨0, 0, 0, 0⟩ else s.iir.regs.getD k ⟨0, 0, 0, 0⟩

section
variable {s : State}

theorem map_iirOld_of_trips (h : s.cfg.iirLimit < s.iir.maxReg) (len : Nat) :
    (List.range len).map (iirOld s) = List.replicate len .zero := by
  have hold : iirOld s = fun _ => .zero := funext fun _ => if_pos h
  rw [hold, List.map_const', List.length_range]

theorem map_iirOld_of_quiet (h : ¬ s.cfg.iirLimit < s.iir.maxReg) :
    (List.range s.iir.regs.length).map (iirOld s) = s.iir.regs := by
  have hold : iirOld s = fun k => s.iir.regs.getD k ⟨0, 0, 0, 0⟩ := funext fun _ => if_neg h
  rw [hold, ← take_eq_map_range_getD _ _ le_rfl, List.take_length]

end

/-- The state the guard leaves: it acts on all sections, and emits the event when none was emitted since
reset. -/
def iirGuarded (s : State) : State :=
  let trips := s.cfg.iirLimit < s.iir.maxReg
  let emits := trips ∧ s.iir.ovfLogged = false
  { s with
    flt := if emits then s.flt.emit .iirOvf else s.flt
    iir := { s.iir with
      regs := (List.range s.iir.regs.length).map (iirOld s)
      maxReg := if trips then 0 else s.iir.maxReg
      ovfLogged := s.iir.ovfLogged || decide emits } }

theorem iirGuard_eq (s : State) : iirGuard s = iirGuarded s := by
  unfold iirGuard iirGuarded iirTrips
  by_cases ht : s.cfg.iirLimit < s.iir.maxReg
  · rw [map_iirOld_of_trips ht]
    by_cases hlog : s.iir.ovfLogged = true <;>
      simp [ht, hlog, IirRegs.zeroed, State.emit, State.setIir, State.setFlt]
  · simp [ht, map_iirOld_of_quiet ht]

/-! ## The step (O38) -/

/-- The coefficients of section `k`. -/
def iirCo (s : State) (k : Nat) : IirCoefs := s.iir.coefs.getD k .reset

/-- The state after a step over `n` sections: the guard's state, its first sections shifted. -/
def iirStepped (x : Num) (n : Nat) (s : State) : State :=
  (iirGuarded s).setIir { (iirGuarded s).iir with
    regs := (List.range s.iir.regs.length).map fun k =>
      if k < n then iirShifted s.cfg.num (iirCo s) (iirOld s) x k else iirOld s k
    maxReg := iirPeak s.cfg.num (iirCo s) (iirOld s) x (iirGuarded s).iir.maxReg n }

theorem iirStep_eq {s : State} (x : Num) {n : Nat} (hnsec : s.iir.nsec = some n)
    (hn : n ≤ s.iir.coefs.length) (hlen : n ≤ s.iir.regs.length) :
    iirStep x s = (iirValue s.cfg.num (iirCo s) (iirOld s) x n, iirStepped x n s) := by
  have hrun := iirRun_eq s.cfg.num (r := (iirGuarded s).iir) (old := iirOld s) x hnsec rfl hn hlen
  unfold iirStep
  rw [iirGuard_eq]
  exact congrArg (fun o => (o.1, (iirGuarded s).setIir o.2)) hrun

/-- With `a0 = 1` a section's output starts from its centre value times 1 (R153). -/
theorem iirOut_of_a0 (f : NumFormat) {c : IirCoefs} (h : c.a0 = some 1) (r : IirSection) (ct : Num) :
    iirOut f c r ct = rnd f (rnd f (rnd f (1 * ct) - rnd f (c.a1.getD 0 * r.y1))
      - rnd f (c.a2.getD 0 * r.y2)) := by
  simp only [iirOut, h, Option.getD_some, numSub, numMul]

/-- Settles O38: the two tests of the configuration, and the cascade by the index of its sections. The step
reads neither port, so popping the frame first changes only the frame. -/
theorem iirStepResult : Obligations.IirStepResult := by
  intro s x h hx hlen written
  have hwritten (c : IirCoefs) : c.written = true ↔ written c := c.written_iff
  refine ⟨fun hn => ?_, fun n hn hc => ?_, fun n hn hw hc => ?_, fun n hn hle hw ha0 => ?_⟩
  · exact exec_iirStep_of_failure h hx (IirRegs.check_of_nsec_none hn)
  · refine exec_iirStep_of_failure h hx (IirRegs.check_of_unwritten hn ?_)
    simpa only [hwritten] using hc
  · refine exec_iirStep_of_failure h hx ?_
    rw [IirRegs.check_of_written hn fun c hc => (hwritten c).2 (hw c hc), if_neg (by simpa using hc)]
  · intro trips emits old co r
    have hcheck : s.iir.check = none := by
      rw [IirRegs.check_of_written hn fun c hc => (hwritten c).2 (hw c hc), if_pos ha0]
    have ha0k (k : Nat) (hk : k < n) : (co k).a0 = some 1 := by
      refine ha0 _ ?_
      rw [take_eq_map_range_getD _ .reset hle]
      exact List.mem_map.2 ⟨k, List.mem_range.2 hk, rfl⟩
    have hclear : iirStep x (s.clearDin .cmd) = _ :=
      iirStep_eq (s := s.clearDin .cmd) x hn hle (hlen ▸ hle)
    refine ⟨iirValue s.cfg.num co old x, iirCentreAt s.cfg.num co old x, rfl,
      fun k hk => ⟨rfl, iirOut_of_a0 _ (ha0k k hk) _ _⟩, iirStep_eq x hn hle (hlen ▸ hle), ?_⟩
    rw [exec_iirStep_of_accepted h hx hcheck, hclear]
    rfl

end Sys2Proof.Machine
end

section
/-! The statements of spec 43_reed_solomon.md: one step of the division (O40), linearity of the parity (O41) and the
remainder of a code word (O42). The product of the field is additive in its first factor, and the feedback byte of
a step is the only thing that a payload byte enters. -/

namespace Sys2Proof.Machine

/-! ## The product of the field (R166) -/

/-- A doubling on bytes: the carry out of bit 7 selects the low byte of the field polynomial. -/
theorem gdouble_eq_ite (field : BitVec 9) (a : Byte) :
    gdouble field a =
      if a.getLsbD 7 then (a <<< 1) ^^^ field.extractLsb' 0 8 else a <<< 1 := by
  have hcarry : (a.setWidth 9 <<< 1).getLsbD 8 = a.getLsbD 7 := by simp
  have hshift : (a.setWidth 9 <<< 1).setWidth 8 = a <<< 1 := by
    ext i hi
    simp
  have hlow : field.setWidth 8 = field.extractLsb' 0 8 := by
    ext i hi
    simp
  simp only [gdouble, BitVec.truncate_eq_setWidth, hcarry, BitVec.setWidth_xor, hshift, hlow]

/-- A doubling is linear over GF(2). -/
theorem gdouble_xor (field : BitVec 9) (a b : Byte) :
    gdouble field (a ^^^ b) = gdouble field a ^^^ gdouble field b := by
  have hsum (x y : Bool) (u v low : Byte) :
      (if (x ^^ y) then u ^^^ v ^^^ low else u ^^^ v) =
        (if x then u ^^^ low else u) ^^^ (if y then v ^^^ low else v) := by
    match x, y with
    | false, false => rfl
    | false, true => exact BitVec.xor_assoc ..
    | true, false =>
      change u ^^^ v ^^^ low = u ^^^ low ^^^ v
      ac_rfl
    | true, true =>
      calc u ^^^ v = u ^^^ v ^^^ (low ^^^ low) := by rw [BitVec.xor_self, BitVec.xor_zero]
        _ = (u ^^^ low) ^^^ (v ^^^ low) := by ac_rfl
  simp only [gdouble_eq_ite, BitVec.getLsbD_xor, BitVec.shiftLeft_xor_distrib, hsum]

/-- The loop's rest, as a sum over the bits it has still to read. -/
theorem gmulLoop_eq_foldl (field : BitVec 9) (b : Byte) : ∀ (k : Nat) (a p : Byte), k ≤ 8 →
    gmulLoop field b k a p =
      (List.range k).foldl
        (fun p i => if b.getLsbD (8 - k + i) then p ^^^ (gdouble field)^[i] a else p) p
  | 0, _, _, _ => rfl
  | k + 1, a, p, hk => by
    have hhead : 8 - (k + 1) = 7 - k := by omega
    have htail (i : Nat) : 7 - k + i.succ = 8 - k + i := by omega
    rw [gmulLoop, gmulLoop_eq_foldl field b k _ _ (by omega), List.range_succ_eq_map]
    simp only [List.foldl_cons, List.foldl_map, hhead, htail, Function.iterate_succ_apply,
      Function.iterate_zero_apply, Nat.add_zero]

/-- The product as R166 (a) sums it: the first factor doubled `i` times for each set bit `i`. -/
theorem gmul_eq_foldl (field : BitVec 9) (a b : Byte) :
    gmul field a b =
      (List.range 8).foldl (fun p i => if b.getLsbD i then p ^^^ (gdouble field)^[i] a else p) 0 :=
  (gmulLoop_eq_foldl field b 8 a 0 le_rfl).trans (by simp only [Nat.sub_self, Nat.zero_add])

theorem gmulLoop_xor (field : BitVec 9) (b : Byte) : ∀ (k : Nat) (a a' p p' : Byte),
    gmulLoop field b k (a ^^^ a') (p ^^^ p') = gmulLoop field b k a p ^^^ gmulLoop field b k a' p'
  | 0, _, _, _, _ => rfl
  | k + 1, a, a', p, p' => by
    have hsum : (if b.getLsbD (7 - k) then p ^^^ p' ^^^ (a ^^^ a') else p ^^^ p') =
        (if b.getLsbD (7 - k) then p ^^^ a else p) ^^^ (if b.getLsbD (7 - k) then p' ^^^ a' else p') := by
      split <;> ac_rfl
    simp only [gmulLoop]
    rw [gdouble_xor, hsum, gmulLoop_xor]

/-- The product distributes over the sum of first factors. -/
theorem gmul_xor_left (field : BitVec 9) (a a' b : Byte) :
    gmul field (a ^^^ a') b = gmul field a b ^^^ gmul field a' b :=
  gmulLoop_xor field b 8 a a' 0 0

/-! ## The operation (O40) -/

/-- One step of the division, entry by entry (R168). -/
theorem rsUpdate_getElem {c : Config} {parity : List Byte} {d : Byte} {j : Nat}
    (hg : parity.length ≤ c.rsGen.length) (hj : j < (rsUpdate c parity d).length)
    (hjp : j < parity.length) :
    (rsUpdate c parity d)[j] =
      (if j + 1 < parity.length then parity.getD (j + 1) 0 else 0) ^^^
        gmul c.rsField (rsFeedback parity d) (c.rsGen.getD (parity.length - 1 - j) 0) := by
  have hgen : ((c.rsGen.take parity.length).reverse)[j]'(by simp; omega) =
      c.rsGen.getD (parity.length - 1 - j) 0 := by
    simp [List.getElem_reverse, Nat.min_eq_left hg, show parity.length - 1 - j < c.rsGen.length by omega]
  have hshift : (parity.drop 1 ++ [0])[j]'(by simp; omega) =
      if j + 1 < parity.length then parity.getD (j + 1) 0 else 0 := by
    split
    · next h => simp [show j < parity.length - 1 by omega, h]
    · next h => simp [List.getElem_append, show ¬ j < parity.length - 1 by omega]
  simp only [rsUpdate, List.getElem_zipWith]
  rw [hgen, hshift]

/-- `RS.UPDATE` on the FILL port (R168). -/
theorem exec_rsUpdate {s : State} (h : Issued .fill [] s) (d : Byte) :
    exec (.rsUpdate d) s =
      .next (s.setEnc { s.enc with parity := rsUpdate s.cfg s.enc.parity d }) := by
  change Host.Outcome.next (rsUpdateOn s.port d s) = _
  rw [h.port, rsUpdateOn, h.accept_empty (h.legal rfl rfl rfl rfl)]

/-- Settles O40: the product bit by bit, the update entry by entry. -/
theorem rsUpdateResult : Obligations.RsUpdateResult := by
  refine ⟨fun field a b => ?_, ?_⟩
  · have hdouble : gdouble field = fun x : Byte =>
        if x.getLsbD 7 then (x <<< 1) ^^^ field.extractLsb' 0 8 else x <<< 1 :=
      funext (gdouble_eq_ite field)
    rw [gmul_eq_foldl, hdouble]
  · intro c parity d hwf hlen NP fb G next
    obtain ⟨-, -, -, hNP, hgen, -, -⟩ := sizes_of_wf hwf
    have hg : parity.length ≤ c.rsGen.length := by omega
    have hupdate : rsUpdate c parity d = next := by
      have hsize : (rsUpdate c parity d).length = NP := by
        rw [rsUpdate_length d (by omega) hg, hlen]
      refine List.ext_getElem (by simp [hsize, next]) fun j hj _ => ?_
      have hjNP : j < c.parityLen := hj.trans_eq hsize
      rw [rsUpdate_getElem hg hj (hlen ▸ hjNP), List.getElem_map, List.getElem_range, hlen]
      split
      · rfl
      · have hlast : c.parityLen - 1 - j = 0 := by omega
        rw [hlast]
        exact BitVec.zero_xor
    refine ⟨hupdate, fun s h hcfg hparity => ?_⟩
    have hexec := exec_rsUpdate h d
    rw [hcfg, hparity, hupdate] at hexec
    exact hexec

/-! ## Linearity (O41) -/

/-- The bytewise sum of two byte strings. -/
def xorBytes (u v : List Byte) : List Byte := List.zipWith (· ^^^ ·) u v

@[simp] theorem xorBytes_cons (a b : Byte) (u v : List Byte) :
    xorBytes (a :: u) (b :: v) = (a ^^^ b) :: xorBytes u v := rfl

theorem xorBytes_length {u v : List Byte} (h : u.length = v.length) :
    (xorBytes u v).length = u.length := by simp [xorBytes, h]

theorem xorBytes_replicate_zero (n : Nat) :
    xorBytes (List.replicate n 0) (List.replicate n 0) = List.replicate n 0 := by simp [xorBytes]

/-- The shift of the parity array is linear. -/
theorem xorBytes_shift {u v : List Byte} (h : u.length = v.length) :
    (xorBytes u v).drop 1 ++ [0] = xorBytes (u.drop 1 ++ [0]) (v.drop 1 ++ [0]) := by
  simp [xorBytes, List.drop_zipWith, List.zipWith_append, h]

/-- Adding a multiple of the generator's entries to a shifted array is linear in the array and the factor. -/
theorem zipWith_gmul_xor (field : BitVec 9) (x y : Byte) : ∀ u v gs : List Byte,
    List.zipWith (fun q g => q ^^^ gmul field (x ^^^ y) g) (xorBytes u v) gs =
      xorBytes (List.zipWith (fun q g => q ^^^ gmul field x g) u gs)
        (List.zipWith (fun q g => q ^^^ gmul field y g) v gs)
  | [], _, _ => by simp [xorBytes]
  | _ :: _, [], _ => by simp [xorBytes]
  | _ :: _, _ :: _, [] => by simp [xorBytes]
  | a :: u, b :: v, g :: gs => by
    have hhead : a ^^^ b ^^^ gmul field (x ^^^ y) g =
        (a ^^^ gmul field x g) ^^^ (b ^^^ gmul field y g) := by
      rw [gmul_xor_left]
      ac_rfl
    simp only [xorBytes_cons, List.zipWith_cons_cons, hhead, zipWith_gmul_xor field x y u v gs]

theorem rsFeedback_xor {u v : List Byte} (h : u.length = v.length) (d e : Byte) :
    rsFeedback (xorBytes u v) (d ^^^ e) = rsFeedback u d ^^^ rsFeedback v e := by
  have hhead : (xorBytes u v).getD 0 0 = u.getD 0 0 ^^^ v.getD 0 0 := by
    cases u <;> cases v <;> simp_all [xorBytes]
  rw [rsFeedback, hhead, rsFeedback, rsFeedback]
  ac_rfl

/-- One step is linear in the parity array and the payload byte together. -/
theorem rsUpdate_xor (c : Config) {u v : List Byte} (h : u.length = v.length) (d e : Byte) :
    rsUpdate c (xorBytes u v) (d ^^^ e) = xorBytes (rsUpdate c u d) (rsUpdate c v e) := by
  simp only [rsUpdate]
  rw [rsFeedback_xor h, xorBytes_shift h, xorBytes_length h, zipWith_gmul_xor, h]

/-- The size of the array after a step depends on its size before only. -/
theorem rsUpdate_length_congr (c : Config) {u v : List Byte} (h : u.length = v.length) (d e : Byte) :
    (rsUpdate c u d).length = (rsUpdate c v e).length := by simp [rsUpdate, h]

theorem foldl_rsUpdate_xor (c : Config) : ∀ p q u v : List Byte,
    p.length = q.length → u.length = v.length →
    (xorBytes p q).foldl (rsUpdate c) (xorBytes u v) =
      xorBytes (p.foldl (rsUpdate c) u) (q.foldl (rsUpdate c) v)
  | [], [], _, _, _, _ => rfl
  | d :: p, e :: q, u, v, hpq, huv => by
    simp only [xorBytes_cons, List.foldl_cons]
    rw [rsUpdate_xor c huv]
    exact foldl_rsUpdate_xor c p q _ _ (by simpa using hpq) (rsUpdate_length_congr c huv d e)

/-- Settles O41: every step is linear, and the cleared array is the sum of two cleared arrays. -/
theorem rsLinear : Obligations.RsLinear := by
  intro c p q h
  have hfold := foldl_rsUpdate_xor c p q _ _ h (Eq.refl (List.replicate c.parityLen (0 : Byte)).length)
  rwa [xorBytes_replicate_zero] at hfold

/-! ## Code words (O42) -/

/-- With no feedback, as when the byte is the head of the array itself, a step only shifts (R168). -/
theorem rsUpdate_head {c : Config} {q : Byte} {ps : List Byte} (hg : (q :: ps).length ≤ c.rsGen.length) :
    rsUpdate c (q :: ps) q = ps ++ [0] := by
  have hfb : rsFeedback (q :: ps) q = 0 := by simp [rsFeedback]
  refine List.ext_getElem (by rw [rsUpdate_length q (by simp) hg]; simp) fun j _ _ => ?_
  simp only [rsUpdate, hfb, List.getElem_zipWith, gmul_zero_left]
  exact BitVec.xor_zero

/-- Streaming the entries of the array in order shifts them all out. -/
theorem foldl_rsUpdate_self {c : Config} : ∀ (ps : List Byte) (k : Nat),
    ps.length + k ≤ c.rsGen.length →
    ps.foldl (rsUpdate c) (ps ++ List.replicate k 0) = List.replicate (ps.length + k) 0
  | [], k, _ => by simp
  | q :: ps, k, hg => by
    have hlen : ps.length + 1 + k ≤ c.rsGen.length := by simpa using hg
    have hstep : rsUpdate c (q :: (ps ++ List.replicate k 0)) q = ps ++ List.replicate (k + 1) 0 := by
      rw [rsUpdate_head (by simp; omega), List.append_assoc, List.replicate_succ']
    rw [List.cons_append, List.foldl_cons, hstep, foldl_rsUpdate_self ps (k + 1) (by omega),
      List.length_cons, Nat.add_assoc, Nat.add_comm 1 k]

/-- Settles O42: after the payload the array is the parity, and streaming it shifts in zeros only. -/
theorem rsCodeWordDivisible : Obligations.RsCodeWordDivisible := by
  intro c payload hwf
  obtain ⟨-, -, -, hNP, hgen, -, -⟩ := sizes_of_wf hwf
  have hlen : (rsParity c payload).length = c.parityLen := rsParity_length payload hNP (by omega)
  have hself := foldl_rsUpdate_self (c := c) (rsParity c payload) 0 (by omega)
  rw [List.replicate_zero, List.append_nil, Nat.add_zero, hlen] at hself
  calc rsParity c (payload ++ rsParity c payload)
      = (rsParity c payload).foldl (rsUpdate c) (rsParity c payload) := List.foldl_append ..
    _ = List.replicate c.parityLen 0 := hself

end Sys2Proof.Machine
end

section
/-! The statements of spec 44_8b10b.md: the words and disparities of `ENC.BYTE` and `ENC.SYNC` (O43), and the
line's balance over a frame (O44). Balance is a fact about the halves: each entry of the tables deviates from as
many ones as zeros by exactly the change of disparity it causes, and the halves of a word and the words of a frame
add up. -/

namespace Sys2Proof.Machine

/-! ## The words (O43) -/

theorem Disparity.pick_eq_ite {α : Type} (d : Disparity) (e : α × α) :
    d.pick e = if d = .neg then e.1 else e.2 := by cases d <;> rfl

theorem Disparity.flip_eq_ite (d : Disparity) : d.flip = if d = .neg then .pos else .neg := by
  cases d <;> rfl

/-- The low five bits of a byte index `T5` (R182). -/
theorem toNat_lowFive (v : Byte) : (v.extractLsb' 0 5).toNat = v.toNat % 32 := by
  simp [BitVec.extractLsb'_toNat]

/-- The high three bits of a byte index `T3` (R182). -/
theorem toNat_highThree (v : Byte) : (v.extractLsb' 5 3).toNat = v.toNat / 32 := by
  have := v.isLt
  rw [BitVec.extractLsb'_toNat, Nat.shiftRight_eq_div_pow, Nat.mod_eq_of_lt (by omega)]

/-- The alternate form stands in for P7 after three six-bit halves of each column (R188). -/
theorem usesA7_iff (x : BitVec 5) (y : BitVec 3) (rd : Disparity) :
    usesA7 x y rd = true ↔ y.toNat = 7 ∧
      ((rd = .neg ∧ x.toNat ∈ [17, 18, 20]) ∨ (rd = .pos ∧ x.toNat ∈ [11, 13, 14])) := by
  cases rd <;> simp [usesA7, or_assoc]

/-- The disparity after a six-bit half (R186). -/
theorem disparityAfter_six (half : BitVec 6) (rd : Disparity) :
    disparityAfter half rd = if ones half = 3 then rd else rd.flip :=
  if_congr (by omega) rfl rfl

/-- The disparity after a four-bit half (R189). -/
theorem disparityAfter_four (half : BitVec 4) (rd : Disparity) :
    disparityAfter half rd = if ones half = 2 then rd else rd.flip :=
  if_congr (by omega) rfl rfl

/-- `ENC.BYTE` on the FILL port (R184). -/
theorem exec_encByte {s : State} (h : Issued .fill [] s) (v : Byte) :
    exec (.encByte v) s = .next ((s.setEnc { s.enc with rd := (encByte s.enc.rd v).2 }).push .fill
      (.word10 (encByte s.enc.rd v).1)) := by
  change Host.Outcome.next (encByteOn s.port v s) = _
  rw [h.port, encByteOn, h.accept_empty (h.legal rfl rfl rfl rfl)]

/-- `ENC.SYNC` on the FILL port (R191). -/
theorem exec_encSync {s : State} (h : Issued .fill [] s) :
    exec .encSync s = .next ((s.setEnc { s.enc with rd := (encSync s.enc.rd).2 }).push .fill
      (.word10 (encSync s.enc.rd).1)) := by
  change Host.Outcome.next (encSyncOn s.port s) = _
  rw [h.port, encSyncOn, h.accept_empty (h.legal rfl rfl rfl rfl)]

/-- Settles O43: the tables agree entry by entry, and each half is the entry that the statement picks. -/
theorem encodeWords : Obligations.EncodeWords := by
  unfold Obligations.EncodeWords
  intro T5 T3 column other word sync
  have hT5 : ∀ x : BitVec 5, tableT5 x = T5.getD x.toNat (0, 0) := by
    simp only [T5]
    decide
  have hT3 : ∀ y : BitVec 3, tableT3 y = T3.getD y.toNat (0, 0) := by
    simp only [T3]
    decide
  have hword (rd : Disparity) (v : Byte) : encByte rd v = word rd v := by
    simp only [encByte, encSix, encFour, disparityAfter_six, disparityAfter_four, usesA7_iff, hT5, hT3,
      toNat_lowFive, toNat_highThree, Disparity.pick_eq_ite, Disparity.flip_eq_ite, tableA7]
    rfl
  have hsync (rd : Disparity) : encSync rd = sync rd := by
    rw [encSync, Disparity.pick_eq_ite, Disparity.flip_eq_ite]
    rfl
  refine ⟨hword, hsync, fun s h => ⟨fun v => ?_, ?_⟩⟩
  · rw [← hword]
    exact exec_encByte h v
  · rw [← hsync]
    exact exec_encSync h

/-! ## Ones and disparity, half by half (O44) -/

/-- The bits of two strings in a row. -/
theorem ones_append {m n : Nat} (x : BitVec m) (y : BitVec n) : ones (x ++ y) = ones x + ones y := by
  have hlow : (List.range n).filter (fun i => (x ++ y).getLsbD i) =
      (List.range n).filter fun i => y.getLsbD i :=
    List.filter_congr fun i hi => by simp [BitVec.getLsbD_append, List.mem_range.1 hi]
  have hhigh : (fun i => (x ++ y).getLsbD i) ∘ (n + ·) = fun i => x.getLsbD i := by
    funext i
    simp [BitVec.getLsbD_append]
  have hrange : List.range (m + n) = List.range n ++ (List.range m).map (n + ·) :=
    (congrArg List.range (Nat.add_comm m n)).trans List.range_add
  rw [ones, hrange, List.filter_append, List.filter_map, hlow, hhigh, List.length_append,
    List.length_map, Nat.add_comm]
  rfl

/-- The excess of ones over zeros sent so far, in pairs, that a disparity stands for (R181, R193). -/
def Disparity.excess (d : Disparity) : Int := if d = .neg then 0 else 1

theorem Disparity.excess_eq_zero_or_one (d : Disparity) : d.excess = 0 ∨ d.excess = 1 := by
  cases d <;> simp [excess]

/-- Each entry of `T5` moves the balance with the disparity (R186). -/
theorem ones_tableT5 (x : BitVec 5) (rd : Disparity) : (ones (rd.pick (tableT5 x)) : Int) =
    3 + (disparityAfter (rd.pick (tableT5 x)) rd).excess - rd.excess := by
  cases rd <;> revert x <;> decide

/-- Each entry of `T3` moves the balance with the disparity (R189). -/
theorem ones_tableT3 (y : BitVec 3) (rd : Disparity) : (ones (rd.pick (tableT3 y)) : Int) =
    2 + (disparityAfter (rd.pick (tableT3 y)) rd).excess - rd.excess := by
  cases rd <;> revert y <;> decide

/-- The alternate form moves the balance with the disparity (R188, R189). -/
theorem ones_tableA7 (rd : Disparity) : (ones (rd.pick tableA7) : Int) =
    2 + (disparityAfter (rd.pick tableA7) rd).excess - rd.excess := by
  cases rd <;> decide

theorem ones_encSix (rd : Disparity) (v : Byte) :
    (ones (encSix rd v) : Int) = 3 + (disparityAfter (encSix rd v) rd).excess - rd.excess :=
  ones_tableT5 _ rd

theorem ones_encFour (rd : Disparity) (v : Byte) :
    (ones (encFour rd v) : Int) = 2 + (disparityAfter (encFour rd v) rd).excess - rd.excess := by
  unfold encFour
  split
  · exact ones_tableA7 rd
  · exact ones_tableT3 _ rd

/-! ## Ones and disparity, word by word (O44) -/

/-- The word of a byte has five ones and the change of disparity (R193). -/
theorem ones_encByte (rd : Disparity) (v : Byte) :
    (ones (encByte rd v).1 : Int) = 5 + (encByte rd v).2.excess - rd.excess := by
  have hword : ones (encByte rd v).1 =
      ones (encSix rd v) + ones (encFour (disparityAfter (encSix rd v) rd) v) := ones_append _ _
  have hsix := ones_encSix rd v
  have hfour := ones_encFour (disparityAfter (encSix rd v) rd) v
  rw [hword, Nat.cast_add, hsix, hfour, encByte]
  ring

/-- The sync word has five ones and the change of disparity (R191, R193). -/
theorem ones_encSync (rd : Disparity) :
    (ones (encSync rd).1 : Int) = 5 + (encSync rd).2.excess - rd.excess := by
  cases rd <;> decide

/-- The words `ws` take the line from the balance of `rd` to that of `rd'`, each within a pair of balance. -/
structure LineBalanced (rd : Disparity) (ws : List Word10) (rd' : Disparity) : Prop where
  total : (ws.map fun w => (ones w : Int)).sum = 5 * ws.length + rd'.excess - rd.excess
  each : ∀ w ∈ ws, ones w = 4 ∨ ones w = 5 ∨ ones w = 6

/-- One word: between two disparities the excess changes by at most a pair. -/
theorem LineBalanced.singleton {rd rd' : Disparity} {w : Word10}
    (h : (ones w : Int) = 5 + rd'.excess - rd.excess) : LineBalanced rd [w] rd' where
  total := by simpa using h
  each u hu := by
    rw [List.mem_singleton.1 hu]
    have hbefore := rd.excess_eq_zero_or_one
    have hafter := rd'.excess_eq_zero_or_one
    omega

theorem LineBalanced.append {rd rd₁ rd₂ : Disparity} {us ws : List Word10} (hu : LineBalanced rd us rd₁)
    (hw : LineBalanced rd₁ ws rd₂) : LineBalanced rd (us ++ ws) rd₂ where
  total := by
    rw [List.map_append, List.sum_append, hu.total, hw.total, List.length_append, Nat.cast_add]
    ring
  each w h := (List.mem_append.1 h).elim (hu.each w) (hw.each w)

theorem encBytes_balanced : ∀ (rd : Disparity) (vs : List Byte),
    LineBalanced rd (encBytes rd vs).1 (encBytes rd vs).2
  | rd, [] => ⟨by simp [encBytes], by simp [encBytes]⟩
  | rd, v :: vs => (LineBalanced.singleton (ones_encByte rd v)).append (encBytes_balanced _ vs)

/-- A frame: the bytes of payload and parity, then the sync word (R201). -/
theorem encodeFrame_balanced (c : Config) (rd : Disparity) (payload : List Byte) :
    LineBalanced rd (encodeFrame c rd payload).1 (encodeFrame c rd payload).2.rd := by
  rw [encodeFrame_eq]
  exact (encBytes_balanced rd _).append (LineBalanced.singleton (ones_encSync _))

/-- Settles O44: the balance of a frame is the sum of the balances of its words. -/
theorem disparityBookkeeping : Obligations.DisparityBookkeeping := by
  intro c rd payload
  have hframe := encodeFrame_balanced c rd payload
  exact ⟨hframe.total, hframe.each⟩

end Sys2Proof.Machine
end

section
/-! The statements of spec 45_frame_encoder.md: `FRAME.ENCODE` (O45), `FRAME.FILL` run through (O46) and
`FRAME.REQ` (O48). The encoder goes byte by byte and hands the disparity on; word `k` of a frame is then byte `k`
encoded at the disparity after the first `k` bytes, and the other operations use the frame as a whole. -/

namespace Sys2Proof.Machine

/-! ## The encoder by index (R201) -/

/-- The disparity after a list of bytes is handed on from byte to byte. -/
theorem encBytes_disparity : ∀ (rd : Disparity) (vs : List Byte),
    (encBytes rd vs).2 = vs.foldl (fun d v => (encByte d v).2) rd
  | _, [] => rfl
  | rd, v :: vs => encBytes_disparity (encByte rd v).2 vs

/-- Word `k` is byte `k` at the disparity after the `k` bytes before it. -/
theorem encBytes_words : ∀ (rd : Disparity) (vs : List Byte),
    (encBytes rd vs).1 =
      (List.range vs.length).map fun k => (encByte (encBytes rd (vs.take k)).2 (vs.getD k 0)).1
  | _, [] => rfl
  | rd, v :: vs => by
    rw [List.length_cons, List.range_succ_eq_map, List.map_cons, List.map_map]
    exact congrArg _ (encBytes_words (encByte rd v).2 vs)

/-! ## FRAME.ENCODE (O45) -/

/-- `FRAME.ENCODE` pushes the encoded frame of its payload and leaves the encoder's registers (R203). -/
theorem exec_frameEncode {s : State} {payload : List Byte} (h : Issued .fill (payload.map .byte) s)
    (hlen : payload.length = s.cfg.dataLen) :
    exec .frameEncode s =
      .next (((s.clearDin .fill).setEnc (encodeFrame s.cfg s.enc.rd payload).2).pushAll .fill
        ((encodeFrame s.cfg s.enc.rd payload).1.map .word10)) := by
  have hl : legal .fill .frameEncode s = true :=
    h.legal rfl rfl rfl (by rw [rowDin, ← hlen]; exact kindsMatch_bytes s.cfg.num payload)
  change Host.Outcome.next (frameEncodeOn s.port s) = _
  rw [h.port, frameEncodeOn, accept_of_legal hl, h.din, byteVal_map]
  rfl

/-- Settles O45: the words of the frame by index; their number and the operation are the encoder's. -/
theorem frameEncodeResult : Obligations.FrameEncodeResult := by
  intro s payload h hlen hwf parity bytes rd sync words enc
  have hrd (k : Nat) : (encBytes s.enc.rd (bytes.take k)).2 = rd k := encBytes_disparity _ _
  have hlast : (encBytes s.enc.rd bytes).2 = rd bytes.length := by rw [← hrd, List.take_length]
  have hwords : (encBytes s.enc.rd bytes).1 =
      (List.range bytes.length).map fun k => (encByte (rd k) (bytes.getD k 0)).1 := by
    simp only [encBytes_words, hrd]
  have hframe : encodeFrame s.cfg s.enc.rd payload = (words, enc) := calc
    encodeFrame s.cfg s.enc.rd payload =
        ((encBytes s.enc.rd bytes).1 ++ [(encSync (encBytes s.enc.rd bytes).2).1],
          { parity := parity, rd := (encSync (encBytes s.enc.rd bytes).2).2 }) := encodeFrame_eq ..
    _ = (words, enc) := by rw [hwords, hlast]
  obtain ⟨-, -, -, hpos, hgen, -⟩ := sizes_of_wf hwf
  have hsize := encodeFrame_length (rd := s.enc.rd) hlen hpos (by omega)
  have hexec := exec_frameEncode h hlen
  rw [hframe] at hsize hexec
  exact ⟨hframe, hsize, hexec⟩

/-! ## FRAME.FILL run through (O46) -/

section
variable {s : State} {slot : Slot}

/-- With an empty schedule `FRAME.FILL` goes on from its write to its publication (R205). -/
theorem fillFinish_of_no_turns (h : s.turns = []) : fillFinish slot s = fillPublish slot s := by
  simp [fillFinish, fillYields, takeFillTurn, h]

/-- With an empty schedule `FRAME.FILL` goes on from its claim to its end (R205). -/
theorem fillContinue_of_no_turns (p : Port) (h : s.turns = []) :
    fillContinue p slot s = fillPublish slot (fillWrite p slot s) := by
  have hwrite : (fillWrite p slot s).turns = [] := by simpa [fillWrite] using h
  simp [fillContinue, fillYields, takeFillTurn, h, fillFinish_of_no_turns hwrite]

/-- A requested fill, nothing scheduled: claim, write and publication in one move (R205). -/
theorem exec_frameFill_of_no_turns (hl : legal .fill .frameFill s = true) (hp : s.port = .fill)
    (hturns : s.turns = []) :
    exec .frameFill s =
      .next (fillPublish s.hand.ready.other (fillWrite .fill s.hand.ready.other (fillClaim s))) := by
  change Host.Outcome.next (frameFillOn s.port s) = _
  rw [hp, frameFillOn, guarded_of_legal hl, fillContinue_of_no_turns (s := fillClaim s) _ hturns]

/-- The three steps together leave the frame of the payload in a ready slot (R205). -/
theorem fillPublish_fillWrite_fillClaim {payload : List Byte} (hdin : s.fill.din = payload.map .byte)
    (hlen : payload.length = s.cfg.dataLen) (hwf : s.cfg.wf = true) :
    fillPublish slot (fillWrite .fill slot (fillClaim s)) = { s with
      fill := { s.fill with din := [] }
      enc := (encodeFrame s.cfg s.enc.rd payload).2
      hand := { (s.hand.setBuf slot (encodeFrame s.cfg s.enc.rd payload).1) with
        ready := slot, fillState := .idle }
      fillJob := none } := by
  rw [fillWrite_eq (s := fillClaim s) hdin hlen hwf]
  cases slot <;> rfl

end

/-- Settles O46: the operation runs through, and its steps together leave the published frame. -/
theorem frameFillResult : Obligations.FrameFillResult := by
  intro s payload h hlen hwf hreq hturns frame slot
  rw [exec_frameFill_of_no_turns (legal_frameFill h hlen hreq) h.port hturns,
    fillPublish_fillWrite_fillClaim h.din hlen hwf]

/-! ## FRAME.REQ (O48) -/

/-- `FRAME.REQ` latches the handoff (R209). -/
theorem exec_frameReq {s : State} (h : Issued .cmd [] s) :
    exec .frameReq s = .next (s.setHand s.hand.latch) := by
  change Host.Outcome.next (frameReqOn s.port s) = _
  rw [h.port, frameReqOn, h.accept_empty (h.legal rfl rfl rfl rfl)]

/-- Settles O48: the latch acts in IDLE only. -/
theorem frameReqResult : Obligations.FrameReqResult := by
  intro s h
  rw [exec_frameReq h]
  obtain ⟨hidle, hlatch⟩ | ⟨hbusy, hlatch⟩ := s.hand.latch_cases
  · exact ⟨fun _ => by rw [hlatch]; rfl, fun hbusy => absurd hidle hbusy⟩
  · exact ⟨fun hidle => absurd hidle hbusy, fun _ => by rw [hlatch]; rfl⟩

end Sys2Proof.Machine
end

section
/-! The statements of spec 46_bit_modulator.md: `MOD.INIT` (O51), `MOD.BIT` (O52) and the square wave of the test
pattern (O53), and the configuration tests of a period (O56), which share their conditions with `MOD.BIT`. As in
the tests, `Elab.async` is off so that no elaboration task holds a thread of its own. -/

namespace Sys2Proof.Machine

set_option Elab.async false

/-! ## MOD.INIT (O51) -/

/-- The arguments that give no sample per bit (R222). -/
theorem modInitRejects_iff {rate bps dec : Nat} :
    modInitRejects rate bps dec = true ↔ bps = 0 ∨ dec = 0 ∨ samplesPerBitOf rate bps dec = 0 := by
  simp only [modInitRejects, Bool.or_eq_true, decide_eq_true_eq, Nat.lt_one_iff, or_assoc]

/-- What `mod_init` writes (R222). -/
theorem modRestart_eq (n : Nat) (s : State) :
    modRestart n s = { s with
      modu := { state := .starting, currentBit := false, samplesSent := 0, onesRun := 0, zerosRun := 0,
                samplesPerBit := some n }
      iter := { firstPacket := true, bitsSent := 0, wordsSent := 0 }
      firBit := { s.firBit with hist := List.replicate s.firBit.hist.length 0 } } := rfl

/-- `MOD.INIT` on the CMD port: refused, or a restart with the frame popped (R222). -/
theorem exec_modInit {s : State} {bps dec : Nat} (h : Issued .cmd [.int bps, .int dec] s)
    (hbps : bps < 2 ^ 32) (hdec : dec < 2 ^ 32) :
    exec .modInit s = .next (if modInitRejects s.par.sampleRate bps dec then
        refuse .cmd (.cfgInvalid 0x131) s
      else modRestart (samplesPerBitOf s.par.sampleRate bps dec) (s.clearDin .cmd)) := by
  have hl : legal .cmd .modInit s = true :=
    h.legal rfl rfl rfl ((kindsMatch_rowDin_iff rfl _).2 ⟨_, _, rfl, ⟨_, rfl, hbps⟩, _, rfl, hdec⟩)
  change Host.Outcome.next (modInitOn s.port s) = _
  rw [h.port, modInitOn, accept_of_legal hl, h.din]
  simp only [operand, List.getD_cons_zero, List.getD_cons_succ, Item.intVal, State.clearDin_par,
    refuse_clearDin]

/-- Settles O51: everything a restart writes is a function of the arguments, the rate and the filter length, so
the second restart writes the same again. -/
theorem modInitResult : Obligations.ModInitResult := by
  intro s bps dec h hbps hdec hlen spb
  refine ⟨fun hbad => ?_, fun hb hd hspb => ?_⟩
  · unfold Refuses
    rw [exec_modInit h hbps hdec, if_pos (modInitRejects_iff.2 hbad), h.port]
  · intro t
    have hok : ¬ modInitRejects s.par.sampleRate bps dec = true :=
      modInitRejects_iff.not.2 (by simp only [hb, hd, false_or]; exact hspb)
    have hagain : Issued .cmd [.int bps, .int dec] { t with cmd := s.cmd } := ⟨h.port, h.din, h.running⟩
    rw [exec_modInit h hbps hdec, if_neg hok, exec_modInit hagain hbps hdec, if_neg hok, modRestart_eq,
      modRestart_eq]
    simp only [State.clearDin_firBit, hlen, t, List.length_replicate]
    exact ⟨rfl, rfl⟩

/-! ## Preconditions (R248, R283) -/

theorem FirRegs.written_iff {r : FirRegs} : r.written = true ↔ none ∉ r.coef := by
  simp only [FirRegs.written, List.all_eq_true, Option.isSome_iff_ne_none]
  exact ⟨fun h hmem => h none hmem rfl, fun h x hx hnone => h (hnone ▸ hx)⟩

theorem FirRegs.not_written_iff {r : FirRegs} : (!r.written) = true ↔ none ∈ r.coef := by
  rw [Bool.not_eq_true', ← Bool.not_eq_true, written_iff, not_not]

theorem rampOn_iff {r : ParRegs} : rampOn r = true ↔ r.rampEn = true ∧ r.highSpeedEn = false := by
  simp [rampOn]

/-- The preconditions of `MOD.BIT` in turn (R224, R283). -/
theorem modBitCheck_eq (s : State) :
    modBitCheck s =
      if s.modu.samplesPerBit = none then some 32
      else if s.par.oneValue = none then some 13
      else if s.par.zeroValue = none then some 14
      else if rampOn s.par = true ∧ s.par.rampAmt = none then some 12
      else if s.par.bitLpfEn = true ∧ none ∈ s.firBit.coef then some 0x102
      else none := by
  simp only [modBitCheck, firstFailure, Bool.and_eq_true, Option.isNone_iff_eq_none,
    FirRegs.not_written_iff]

/-! ## MOD.BIT (O52) -/

section
variable {s : State}

/-- `MOD.BIT` with a precondition that fails (R224, R283). -/
theorem exec_modBit_of_failure (h : Issued .cmd [] s) {info : Nat} (hc : modBitCheck s = some info) :
    Refuses .modBit s (.cfgInvalid info) := by
  change Host.Outcome.next (modBitOn s.port s) = _
  rw [h.port, modBitOn, h.accept_empty (h.legal rfl rfl rfl rfl)]
  simp only [hc]

/-- `MOD.BIT` with its preconditions met pushes what `mod_bit` returns (R224). -/
theorem exec_modBit_of_accepted (h : Issued .cmd [] s) (hc : modBitCheck s = none) :
    exec .modBit s = .next ((modBit s).2.push .cmd (.num (modBit s).1)) := by
  change Host.Outcome.next (modBitOn s.port s) = _
  rw [h.port, modBitOn, h.accept_empty (h.legal rfl rfl rfl rfl)]
  simp only [hc]

end

/-- The state with what a sample pulls from the line, if a bit is due (R224). -/
def pulledState (s : State) : State := if modBitDue s.modu then (modPull s).2 else s

/-- Pulling a bit leaves what a sample goes on to read or write: the configuration, the parameters, the CMD
port, the modulator and the BIT filter (R207, R224). -/
theorem pulledState_frame (s : State) :
    (pulledState s).cfg = s.cfg ∧ (pulledState s).par = s.par ∧ (pulledState s).cmd = s.cmd ∧
    (pulledState s).modu = s.modu ∧ (pulledState s).firBit = s.firBit := by
  have hpoint (t : State) : (interleave t).modu = t.modu ∧ (interleave t).firBit = t.firBit := by
    obtain ⟨-, -, -, -, -, hbit, -, -, hmodu, -⟩ := interleave_frame t
    exact ⟨hmodu, hbit⟩
  have hadvance : (iterAdvance interleave s).modu = s.modu ∧
      (iterAdvance interleave s).firBit = s.firBit := by
    unfold iterAdvance
    split
    · split <;> simp [hpoint]
    · exact ⟨rfl, rfl⟩
  have hnext := periodFrame_nextBit s
  unfold pulledState modPull
  split
  · split
    · exact ⟨rfl, rfl, rfl, rfl, rfl⟩
    · exact ⟨congrArg PeriodFrame.cfg hnext, State.par_eq_of_periodFrame hnext,
        State.cmd_eq_of_periodFrame hnext, hadvance⟩
  · exact ⟨rfl, rfl, rfl, rfl, rfl⟩

/-- The modulator with the bit `b` started if one is due (R224). -/
def ModRegs.advance (m : ModRegs) (b : Bool) : ModRegs := if modBitDue m then m.start b else m

/-- The modulator after a sample, `b` being the bit it starts if one is due (R224). -/
def ModRegs.sampled (m : ModRegs) (b : Bool) : ModRegs :=
  { m.advance b with samplesSent := (m.advance b).samplesSent + 1 }

/-- A level through the shaping filter when it is on, and the filter after it (R224). -/
def shapeLevel (s : State) (v : Num) : Num × FirRegs :=
  if s.par.bitLpfEn then s.firBit.step s.cfg.num v else (v, s.firBit)

/-- `modStart` in two parts: the line and the modulator (R224). -/
theorem modStart_eq (s : State) :
    modStart s = (pulledState s).setModu (s.modu.advance (modPull s).1) := by
  obtain ⟨-, -, -, hmodu, -⟩ := pulledState_frame s
  unfold modStart ModRegs.advance
  by_cases hdue : modBitDue s.modu = true
  · rw [pulledState, if_pos hdue] at hmodu ⊢
    simp only [hdue, if_true, hmodu]
  · rw [pulledState, if_neg hdue, if_neg hdue, if_neg hdue]
    rfl

/-- `mod_bit` in three parts: the line, the modulator, the shaped level (R224). -/
theorem modBit_eq (s : State) :
    let m := s.modu.sampled (modPull s).1
    let y := shapeLevel s (modLevel s.cfg.num s.par m)
    modBit s = (y.1, ((pulledState s).setModu m).setFirBit y.2) := by
  intro m y
  obtain ⟨hcfg, hpar, -, -, hbit⟩ := pulledState_frame s
  have hshape (v : Num) :
      (if s.par.bitLpfEn then firStep .bit v ((pulledState s).setModu m) else (v, (pulledState s).setModu m)) =
        ((shapeLevel s v).1, ((pulledState s).setModu m).setFirBit (shapeLevel s v).2) := by
    unfold shapeLevel
    rw [← hbit, ← hcfg]
    split <;> rfl
  unfold modBit
  simp only [modStart_eq, State.setModu_modu, State.setModu_par, State.setModu_cfg, hcfg, hpar]
  exact hshape _

/-- The run counter, its bound written as a test (R224). -/
theorem sat_eq (n : Nat) : sat n = if n ≤ 2 ^ 32 - 1 then n else 2 ^ 32 - 1 := Nat.min_def

section
variable {m : ModRegs}

/-- A bit is due after `MOD.INIT` and when the bit before has all its samples (R224). -/
theorem modBitDue_iff {spb : Nat} (hspb : m.samplesPerBit = some spb) :
    modBitDue m = true ↔ m.state = .starting ∨ spb ≤ m.samplesSent := by
  simp [modBitDue, hspb]

/-- The first sample of a bit (R224). -/
theorem ModRegs.sampled_of_due (h : modBitDue m = true) (b : Bool) :
    m.sampled b = { state := .withinBit, currentBit := b, samplesSent := 1
                    onesRun := if b then sat (m.onesRun + 1) else 0
                    zerosRun := if b then 0 else sat (m.zerosRun + 1)
                    samplesPerBit := m.samplesPerBit } := by
  unfold sampled advance
  rw [if_pos h]
  rfl

/-- A later sample of a bit (R224). -/
theorem ModRegs.sampled_of_not_due (h : ¬ modBitDue m = true) (b : Bool) :
    m.sampled b = { m with samplesSent := m.samplesSent + 1 } := by
  unfold sampled advance
  rw [if_neg h]

end

/-- The level of a bit with written levels, its ramp one rounded product from the second bit of a run on
(R224, R226). -/
theorem modLevel_eq (f : NumFormat) {r : ParRegs} {one zero : Num} (h1 : r.oneValue = some one)
    (h0 : r.zeroValue = some zero) (m : ModRegs) :
    modLevel f r m =
      if m.currentBit then
        if rampOn r then rnd f (one + rnd f (r.rampAmt.getD 0 * ((m.onesRun : Rat) - 1))) else one
      else
        if rampOn r then rnd f (zero - rnd f (r.rampAmt.getD 0 * ((m.zerosRun : Rat) - 1))) else zero := by
  unfold modLevel numAdd numSub numMul
  cases m.currentBit <;> simp [h1, h0]

/-- Settles O52: the preconditions in turn, then the bit, the modulator, the level and the filter in turn. -/
theorem modBitResult : Obligations.ModBitResult := by
  intro s h ramp unshaped
  have hrefused {info : Nat} (hc : modBitCheck s = some info) : Refuses .modBit s (.cfgInvalid info) :=
    exec_modBit_of_failure h hc
  have hready (h12 : ramp = true → s.par.rampAmt ≠ none) :
      ¬ (rampOn s.par = true ∧ s.par.rampAmt = none) := fun ⟨hon, hamt⟩ => h12 hon hamt
  rw [modBitCheck_eq] at hrefused
  refine ⟨fun h32 => hrefused (by rw [if_pos h32]),
    fun h32 h13 => hrefused (by rw [if_neg h32, if_pos h13]),
    fun h32 h13 h14 => hrefused (by rw [if_neg h32, if_neg h13, if_pos h14]),
    fun h32 h13 h14 hon h12 => hrefused (by rw [if_neg h32, if_neg h13, if_neg h14, if_pos ⟨hon, h12⟩]),
    fun h32 h13 h14 h12 hf => hrefused
      (by rw [if_neg h32, if_neg h13, if_neg h14, if_neg (hready h12), if_pos hf]), ?_⟩
  intro spb one zero hspb h1 h0 h12 hf starts pulled run u m r amt level shaped t
  have hdue : modBitDue s.modu = true ↔ starts := modBitDue_iff hspb
  have hu : pulledState s = u := if_congr hdue rfl rfl
  have hm : s.modu.sampled pulled.1 = m := by
    by_cases hst : starts
    · rw [ModRegs.sampled_of_due (hdue.2 hst), sat_eq, sat_eq, hspb]
      exact (if_pos hst).symm
    · rw [ModRegs.sampled_of_not_due (hdue.not.2 hst)]
      exact (if_neg hst).symm
  have hlevel : modLevel s.cfg.num s.par m = level := modLevel_eq _ h1 h0 m
  have hbit : modBit s = (shaped.1, t) := by
    have hparts : modBit s =
        ((shapeLevel s (modLevel s.cfg.num s.par (s.modu.sampled pulled.1))).1,
          ((pulledState s).setModu (s.modu.sampled pulled.1)).setFirBit
            (shapeLevel s (modLevel s.cfg.num s.par (s.modu.sampled pulled.1))).2) := modBit_eq s
    rw [hm, hlevel, hu] at hparts
    exact hparts
  have hcheck : modBitCheck s = none := by
    rw [modBitCheck_eq, if_neg (by simp [hspb]), if_neg (by simp [h1]), if_neg (by simp [h0]),
      if_neg (hready h12), if_neg hf]
  have hcmd : t.cmd = s.cmd := by
    obtain ⟨-, -, hcmd, -⟩ := pulledState_frame s
    rw [← hcmd, hu]
  refine ⟨hbit, ?_⟩
  rw [exec_modBit_of_accepted h hcheck, hbit, ← hcmd]
  rfl

/-! ## The test pattern (O53) -/

/-- The quotient and the remainder of the next number. -/
theorem succ_div_mod_cases (n : Nat) {d : Nat} (hd : 1 ≤ d) :
    (n % d + 1 < d ∧ (n + 1) / d = n / d ∧ (n + 1) % d = n % d + 1) ∨
    (n % d + 1 = d ∧ (n + 1) / d = n / d + 1 ∧ (n + 1) % d = 0) := by
  have hn := Nat.div_add_mod n d
  obtain hin | hend := Nat.lt_or_eq_of_le (Nat.succ_le_of_lt (Nat.mod_lt n hd))
  · exact .inl ⟨hin, (Nat.div_mod_unique hd).2 ⟨by omega, hin⟩⟩
  · exact .inr ⟨hend, (Nat.div_mod_unique hd).2 ⟨by rw [Nat.mul_succ]; omega, hd⟩⟩

/-- The modulator after `k` samples of the test pattern; every run is one bit long (R225 (d)). -/
def patternRegs (spb : Nat) : Nat → ModRegs
  | 0 => { state := .starting, currentBit := false, samplesSent := 0, onesRun := 0, zerosRun := 0,
           samplesPerBit := some spb }
  | k + 1 =>
    let b := decide (k / spb % 2 = 0)
    { state := .withinBit, currentBit := b, samplesSent := k % spb + 1, onesRun := b.toNat,
      zerosRun := (!b).toNat, samplesPerBit := some spb }

/-- A sample of the test pattern, its bit inverted when it is due (R225 (b), (d)). -/
theorem patternRegs_succ {spb : Nat} (hpos : 1 ≤ spb) : ∀ k,
    (patternRegs spb k).sampled (!(patternRegs spb k).currentBit) = patternRegs spb (k + 1)
  | 0 => by
    rw [ModRegs.sampled_of_due rfl]
    simp [patternRegs, sat]
  | k + 1 => by
    have hdue : modBitDue (patternRegs spb (k + 1)) = true ↔ spb ≤ k % spb + 1 :=
      (modBitDue_iff rfl).trans (or_iff_right (by simp [patternRegs]))
    obtain ⟨hlt, hdiv, hmod⟩ | ⟨hend, hdiv, hmod⟩ := succ_div_mod_cases k hpos
    · rw [ModRegs.sampled_of_not_due (hdue.not.2 (by omega)), patternRegs, patternRegs, hdiv, hmod]
    · have hflip : decide ((k / spb + 1) % 2 = 0) = !decide (k / spb % 2 = 0) := by
        rw [← decide_not]
        exact decide_eq_decide.2 (by omega)
      rw [ModRegs.sampled_of_due (hdue.2 hend.ge), patternRegs, patternRegs, hdiv, hmod, hflip]
      cases decide (k / spb % 2 = 0) <;> rfl

/-- In test-pattern mode with the filter off a sample touches the modulator alone (R225 (d), (g)). -/
theorem modBit_of_testPattern {s : State} (htest : s.par.testPatternEn = true)
    (hfilter : s.par.bitLpfEn = false) :
    let m := s.modu.sampled (!s.modu.currentBit)
    modBit s = (modLevel s.cfg.num s.par m, s.setModu m) := by
  have hpull : modPull s = (!s.modu.currentBit, s) := if_pos htest
  have hline : pulledState s = s := by
    unfold pulledState
    rw [hpull, ite_self]
  have hshape (v : Num) : shapeLevel s v = (v, s.firBit) := if_neg (by simp [hfilter])
  simp only [modBit_eq, hpull, hline, hshape]
  rfl

/-- Settles O53: the states between the samples are those of the pattern, and without the ramp the level is the
bit's. -/
theorem testPatternSquareWave : Obligations.TestPatternSquareWave := by
  intro s spb one zero n hmodu hpos htest hfilter hramp h1 h0
  have hsample (k : Nat) : modBit (s.setModu (patternRegs spb k)) =
      (modLevel s.cfg.num s.par (patternRegs spb (k + 1)), s.setModu (patternRegs spb (k + 1))) := by
    rw [modBit_of_testPattern (s := s.setModu (patternRegs spb k)) htest hfilter, State.setModu_modu,
      patternRegs_succ hpos]
    rfl
  have hlevel (k : Nat) : modLevel s.cfg.num s.par (patternRegs spb (k + 1)) =
      if k / spb % 2 = 0 then one else zero := by
    rw [modLevel_eq _ h1 h0, hramp]
    simp [patternRegs]
  have hstart : s = s.setModu (patternRegs spb 0) := by rw [patternRegs, ← hmodu]; rfl
  have hloop := runList_replicate (f := fun _ _ s => modBit s)
    (chain := fun k => s.setModu (patternRegs spb k)) (fun k => by rw [hsample]) n 0
  rw [takeSamples, hstart, hloop]
  simp only [Nat.zero_add, hsample, hlevel]

/-! ## The configuration tests (O56) -/

/-- The conditions of a telemetry mode in turn (R248). -/
def telemFailure (s : State) (d : Nat) : Option Nat :=
  if s.par.bps = none then some 9
  else if s.par.sampleRate / d / s.par.bps.getD 0 = 0 then some 0x131
  else if s.par.oneValue = none then some 13
  else if s.par.zeroValue = none then some 14
  else if s.par.rampEn = true ∧ s.par.highSpeedEn = false ∧ s.par.rampAmt = none then some 12
  else if s.par.bitLpfEn = true ∧ none ∈ (s.fir .bit).coef then some 0x102
  else none

section
variable {s : State}

theorem firstFailure_telemChecks (d : Nat) : firstFailure (telemChecks s d) = telemFailure s d := by
  simp only [telemChecks, telemFailure, firstFailure, Bool.and_eq_true, Option.isNone_iff_eq_none,
    FirRegs.not_written_iff, rampOn_iff, decide_eq_true_eq, Nat.lt_one_iff, samplesPerBitOf, and_assoc]
  rfl

theorem configFailure_measure (h : resolveMode s.par = .measure) : configFailure s = none := by
  rw [configFailure, h]

theorem configFailure_tone (h : resolveMode s.par = .tone) :
    configFailure s =
      if s.par.testToneFreq = none then some 6
      else if s.par.toneKind = .digital ∧ s.par.oneValue = none then some 13
      else if s.par.toneKind = .digital ∧ s.par.zeroValue = none then some 14
      else none := by
  simp only [configFailure, h, firstFailure, Bool.and_eq_true, decide_eq_true_eq, Option.isNone_iff_eq_none]

theorem configFailure_hs (h : resolveMode s.par = .hs) : configFailure s = telemFailure s 1 := by
  simp only [configFailure, h, firstFailure_telemChecks]

/-- In DUV the filters come before the telemetry (R248); the codes of the two IIR tests are the answers of
`IirRegs.check`. -/
theorem configFailure_duv (h : resolveMode s.par = .duv) :
    configFailure s =
      if s.par.periodLen % s.par.decimationRate ≠ 0 then some 0x130
      else if none ∈ (s.fir .dec).coef then some 0x100
      else if none ∈ (s.fir .int).coef then some 0x101
      else if s.par.hpfEn = true ∧ s.iir.check ≠ none then s.iir.check
      else if s.par.telemEn then telemFailure s s.par.decimationRate
      else none := by
  have hrest : firstFailure (if s.par.telemEn then telemChecks s s.par.decimationRate else []) =
      if s.par.telemEn then telemFailure s s.par.decimationRate else none := by
    rw [apply_ite firstFailure, firstFailure_telemChecks, firstFailure]
  have hcheck : s.iir.check = none ∨ s.iir.check = some 0x110 ∨ s.iir.check = some 0x111 := by
    unfold IirRegs.check
    split
    · exact .inr (.inl rfl)
    · split
      · exact .inl rfl
      · exact .inr (.inr rfl)
  simp only [configFailure, h, List.cons_append, List.nil_append, firstFailure, hrest, decide_eq_true_eq,
    FirRegs.not_written_iff, Bool.and_eq_true, State.fir]
  obtain hc | hc | hc := hcheck <;> simp [hc]

end

/-- A coefficient record with a cell unwritten (R153). -/
theorem IirCoefs.not_written_iff (c : IirCoefs) : ¬ c.written = true ↔
    c.a0 = none ∨ c.a1 = none ∨ c.a2 = none ∨ c.b0 = none ∨ c.b1 = none ∨ c.b2 = none := by
  simp only [written_iff, ne_eq, not_and_or, not_not]

/-- Settles O56: mode by mode; in DUV the first test that fails is the branch taken, and past the first three
tests it is the IIR's answer or that of the telemetry. -/
theorem configurationTests : Obligations.ConfigurationTests := by
  intro s r written telem unready
  have htelem (d : Nat) : telemFailure s d = telem d := by
    simp only [telem, telemFailure, written, not_not, r]
  refine ⟨configFailure_measure, configFailure_tone, fun h => (configFailure_hs h).trans (htelem 1),
    fun h => ?_⟩
  have hduv := configFailure_duv h
  rw [htelem] at hduv
  have hpassed (hlen : r.periodLen % r.decimationRate = 0) (hdec : written .dec) (hint : written .int) :
      configFailure s =
        if r.hpfEn = true ∧ s.iir.check ≠ none then s.iir.check
        else if r.telemEn then telem r.decimationRate else none := by
    rw [hduv, if_neg (not_not.2 hlen), if_neg hdec, if_neg hint]
  have hunready (n : Nat) : unready n ↔ ∃ c ∈ s.iir.coefs.take n, ¬ c.written = true := by
    simp only [unready, IirCoefs.not_written_iff]
  refine ⟨fun hlen => by rw [hduv, if_pos hlen],
    fun hlen hdec => by rw [hduv, if_neg (not_not.2 hlen), if_pos (not_not.1 hdec)],
    fun hlen hdec hint => by
      rw [hduv, if_neg (not_not.2 hlen), if_neg hdec, if_pos (not_not.1 hint)],
    fun hlen hdec hint hon => ?_, fun hlen hdec hint hoff => ?_⟩
  · have hfailed {info : Nat} (hc : s.iir.check = some info) : configFailure s = some info := by
      rw [hpassed hlen hdec hint, hc, if_pos ⟨hon, Option.some_ne_none info⟩]
    have hcheck {n : Nat} (hn : s.iir.nsec = some n) (hready : ¬ unready n) :=
      IirRegs.check_of_written hn (by simpa only [hunready, not_exists, not_and, not_not] using hready)
    refine ⟨fun hn => hfailed (IirRegs.check_of_nsec_none hn),
      fun n hn hbad => hfailed (IirRegs.check_of_unwritten hn ((hunready n).1 hbad)),
      fun n hn hready ha0 => hfailed ?_, fun n hn hready ha0 => ?_⟩
    · rw [hcheck hn hready, if_neg (by simpa using ha0)]
    · rw [hpassed hlen hdec hint, hcheck hn hready, if_pos ha0, if_neg (by simp)]
  · rw [hpassed hlen hdec hint, if_neg (by simp [hoff])]

end Sys2Proof.Machine
end

section
/-! The statements of spec 47_period_processor.md and 60_exceptions.md: the mode (O54), the fatal event (O8), the
halted block (O9), the monitors of a period (O59), the MEASURE period (O58) and the DUV path (O60). -/

namespace Sys2Proof.Machine

set_option Elab.async false

/-! ## The mode (O54) -/

/-- Settles O54: the enables in order, each test reached when the ones before it fail. -/
theorem modePriority : Obligations.ModePriority := by
  intro r
  refine ⟨fun htone => if_pos htone, fun htone hmeas => ?_, fun htone hmeas hhs => ?_,
    fun htone hmeas hhs => ?_, rfl, fun hhs => ?_⟩
  · rw [resolveMode, htone, hmeas]
    rfl
  · rw [resolveMode, htone, hmeas, hhs]
    rfl
  · rw [resolveMode, htone, hmeas, hhs]
    rfl
  · rw [rampOn, hhs, Bool.not_true, Bool.and_false]

/-! ## The fatal event (O8) -/

/-- No update but the halt writes `HALTED` (R286). -/
theorem halted_kept (b : Bool) : Kept fun s => s.flt.halted = b := by
  have plain : ∀ {s t}, LogsPlain s t → s.flt.halted = b → t.flt.halted = b := by
    rintro s t (hflt | ⟨e, -, -, hflt⟩) h <;> rw [hflt] <;> exact h
  constructor
  case toFillKept =>
    constructor
    all_goals
      intros
      simpa
  case iirGuard =>
    intro s h
    rcases iirGuard_log s with ⟨hflt, -⟩ | ⟨-, hflt, -⟩ <;> rw [hflt] <;> exact h
  case cross => exact fun s _ => plain (crossBoundary_logsPlain s)
  case window => exact fun s => plain (measureWindow_logsPlain s)
  case timing => exact fun s dt _ => plain (loopTiming_logsPlain s dt)
  all_goals
    intros
    simpa

/-- A legal period of the wrong size raises the fatal event (R286). -/
theorem exec_procPeriod_of_mismatch {s : State} {n : BitVec 20}
    (hl : legal s.port (.procPeriod n) s = true) (hn : n.toNat ≠ s.par.periodLen) :
    exec (.procPeriod n) s = .next (raisePeriodMismatch .cmd n.toNat (s.clearDin .cmd)) := by
  have hport : s.port = .cmd := by simpa [portAllows] using (legal_iff.1 hl).2.1
  change Host.Outcome.next (procPeriodOn s.port n s) = _
  rw [procPeriodOn, accept_of_legal hl, State.clearDin_par, if_pos hn, hport]

/-- Settles O8: what the fatal event leaves; every other operation only makes updates that keep `HALTED`. -/
theorem periodMismatchHalts : Obligations.PeriodMismatchHalts := by
  refine ⟨fun n s hl hn => exec_procPeriod_of_mismatch hl hn, fun i s t he hrun hhalt => ?_⟩
  by_contra hnone
  have hkept : t.flt.halted = false := (halted_kept false).exec
    (fun n hi hn => absurd ⟨n, hi, hn⟩ hnone) hrun he
  rw [hhalt] at hkept
  exact Bool.noConfusion hkept

/-! ## The halted block (O9) -/

/-- The state without what moves while the block is halted: ports, schedule, `EVT`, `FAULT`, `HALTED`. -/
def State.frozen (s : State) : State :=
  { s with cmd := .empty, fill := .empty, turns := [], port := .cmd,
           flt := { evt := [], fault := 0, halted := false } }

/-- Two states with one frozen part differ in what `frozen` leaves out. -/
theorem State.eq_of_frozen {s t : State} (h : t.frozen = s.frozen) :
    t = { s with cmd := t.cmd, fill := t.fill, turns := t.turns, port := t.port, flt := t.flt } :=
  congrArg (fun u : State =>
    { u with cmd := t.cmd, fill := t.fill, turns := t.turns, port := t.port, flt := t.flt }) h

section
variable (s : State) (p : Port)

@[simp] theorem frozen_setIo (x : PortIO) : (s.setIo p x).frozen = s.frozen := by cases p <;> rfl
@[simp] theorem frozen_setTurns (x : List Turn) : (s.setTurns x).frozen = s.frozen := rfl
@[simp] theorem frozen_setPort : (s.setPort p).frozen = s.frozen := rfl
@[simp] theorem frozen_emit (e : Event) : (s.emit e).frozen = s.frozen := rfl

@[simp] theorem frozen_clearDin : (s.clearDin p).frozen = s.frozen := frozen_setIo s p _

@[simp] theorem frozen_push (v : Item) : (s.push p v).frozen = s.frozen := frozen_setIo s p _

@[simp] theorem frozen_deliver (x : Txn) (rest : List Txn) : (s.deliver p x rest).frozen = s.frozen :=
  frozen_setIo s p _

@[simp] theorem frozen_refuse (e : Event) : (refuse p e s).frozen = s.frozen :=
  (frozen_clearDin (s.emit e) p).trans (frozen_emit s e)

/-- A command writes no more of the frozen part than its body does. -/
theorem frozen_accept {i : Instr} {body : List Item → State → State}
    (hbody : ∀ items u, (body items u).frozen = u.frozen) :
    (accept p i s body).frozen = s.frozen := by
  cases hl : legal p i s with
  | true => rw [accept_of_legal hl, hbody, frozen_clearDin]
  | false => rw [accept_of_illegal hl, frozen_refuse]

@[simp] theorem frozen_nopOn : (nopOn p s).frozen = s.frozen := frozen_accept s p fun _ _ => rfl

@[simp] theorem frozen_parGetOn (r : ParReg) : (parGetOn p r s).frozen = s.frozen :=
  frozen_accept s p fun _ u => by split <;> simp

@[simp] theorem frozen_faultGetOn : (faultGetOn p s).frozen = s.frozen :=
  frozen_accept s p fun _ _ => frozen_push _ _ _

end

section
variable {s t : State}

/-- The halted block accepts three operations (R281). -/
theorem haltAllows_cases {i : Instr} (h : haltAllows i = true) :
    i = .nop ∨ (∃ r, i = .parGet r) ∨ i = .faultGet := by
  cases i <;> simp [haltAllows] at h ⊢

/-- The operations the halted block accepts only read; the others are refused (R281, R282). -/
theorem frozen_exec {i : Instr} (hhalt : s.flt.halted = true) (he : exec i s = .next t) :
    t.frozen = s.frozen := by
  cases hallow : haltAllows i with
  | true =>
    obtain rfl | ⟨r, rfl⟩ | rfl := haltAllows_cases hallow <;> injection he with he <;> subst he
    · exact frozen_nopOn _ _
    · exact frozen_parGetOn _ _ r
    · exact frozen_faultGetOn _ _
  | false =>
    have hl : legal s.port i s = false := by simp [legal, hhalt, hallow]
    injection (exec_of_illegal hl).symm.trans he with he
    rw [← he, frozen_refuse]

/-- A move of a port of the halted block. -/
theorem frozen_portMove {p : Port} (hhalt : s.flt.halted = true) (he : portMove p s = .next t) :
    t.frozen = s.frozen := by
  unfold portMove at he
  split at he
  · injection he with he
    rw [he]
  · rename_i x rest _
    rw [← frozen_deliver s p x rest]
    cases hw : decode x.word with
    | error e =>
      injection (runWord_of_error hw).symm.trans he with he
      rw [← he, frozen_refuse]
    | ok i => exact frozen_exec (by simpa using hhalt) ((runWord_of_ok hw).symm.trans he)

/-- A `FRAME.FILL` in progress does not go on in the halted block (log entry 10). -/
theorem frozen_fillPortMove (hhalt : s.flt.halted = true) (he : fillPortMove s = .next t) :
    t.frozen = s.frozen := by
  simp only [fillPortMove, activeJob_none (.inr hhalt)] at he
  exact frozen_portMove hhalt he

/-- A step of the halted block that is no reset is a move of one port. -/
theorem frozen_step (hhalt : s.flt.halted = true) (hreset : ∀ rest, s.turns ≠ .reset :: rest)
    (he : step s = .next t) : t.frozen = s.frozen := by
  cases hturns : s.turns with
  | cons turn rest =>
    rw [← frozen_setTurns s rest]
    have hhalt' : (s.setTurns rest).flt.halted = true := hhalt
    cases turn with
    | cmd => exact frozen_portMove hhalt' ((step_of_cmd_turn hturns).symm.trans he)
    | fill => exact frozen_fillPortMove hhalt' ((step_of_fill_turn hturns).symm.trans he)
    | reset => exact absurd hturns (hreset rest)
  | nil =>
    cases hin : s.cmd.inbox with
    | nil => exact frozen_fillPortMove hhalt ((step_of_no_turn hturns hin).symm.trans he)
    | cons x rest => exact frozen_portMove hhalt ((step_of_cmd_inbox hturns hin).symm.trans he)

end

/-- Settles O9: the frozen part is that of before, and no update but reset takes `HALTED` back. -/
theorem haltedFrozen : Obligations.HaltedFrozen := fun _ _ he hhalt hreset =>
  ⟨State.eq_of_frozen (frozen_step hhalt hreset he),
    step_keeps_unless_reset (halted_kept true) (fun s _ _ => s.halt_halted) hhalt he hreset⟩

/-! ## The monitors (O59) -/

/-- The first clipped sample of a mode entry, logged (R249). -/
def State.logClip (s : State) (i : Nat) : State :=
  (s.setProc { s.proc with clipLogged := true }).emit (.clip i)

section
variable {s : State} {o : Num}

theorem clipCheck_of_clip (i : Nat) (hclip : s.cfg.clipLimit < |o|) (hlog : s.proc.clipLogged = false) :
    clipCheck i o s = s.logClip i :=
  if_pos ⟨by rwa [numAbs_eq_abs], hlog⟩

theorem clipCheck_of_quiet (i : Nat) (h : s.proc.clipLogged = true ∨ ¬ s.cfg.clipLimit < |o|) :
    clipCheck i o s = s := by
  refine if_neg fun ⟨hclip, hlog⟩ => ?_
  rw [numAbs_eq_abs] at hclip
  rcases h with h | h
  · exact Bool.noConfusion (h.symm.trans hlog)
  · exact h hclip

end

/-- One more duration: the longest, the shortest, the sum and the count (R252). -/
theorem ltAdd_eq (p : ProcRegs) (dt : Duration) :
    ltAdd p dt = { p with
      ltMax := max p.ltMax dt, ltMin := some (p.ltMin.elim dt (min · dt)),
      ltTotal := p.ltTotal + dt, ltCount := p.ltCount + 1 } := by
  have hmax : (if p.ltMax < dt then dt else p.ltMax) = max p.ltMax dt := numMax_eq_max _ _
  unfold ltAdd
  rw [hmax]
  cases p.ltMin with
  | none => rfl
  | some m =>
    have hmin : (if dt < m then some dt else some m) = some (min m dt) := by
      rw [← apply_ite some, min_comm, min_def_lt]
    simp only [hmin, Option.elim_some]

/-- Settles O59: the two tests of `clip_check`, and the loop timing inside a window and at its end. -/
theorem periodMonitors : Obligations.PeriodMonitors := by
  refine ⟨fun s o i => ⟨clipCheck_of_clip i, fun h => clipCheck_of_quiet i ?_⟩, ?_⟩
  · exact h.symm.imp_right not_lt.2
  · intro s dt longest shortest late
    have hshortest : s.proc.ltMin.elim dt (min · dt) = shortest := by
      dsimp only [shortest]
      cases s.proc.ltMin <;> rfl
    unfold loopTiming
    simp only [ltAdd_eq, hshortest]
    by_cases hend : s.proc.ltCount + 1 = s.cfg.ltWindow
    · rw [if_pos hend, if_pos hend]
      change State.setProc (if late then s.emit (.deadlineWarn longest) else s) _ = _
      by_cases hlate : late
      · rw [if_pos hlate, if_pos hlate]
        rfl
      · rw [if_neg hlate, if_neg hlate]
        rfl
    · rw [if_neg hend, if_neg hend]
      rfl

/-! ## The MEASURE period (O58) -/

/-- A sample of MEASURE mode passes through and raises the peak (R240). -/
theorem measureSample_eq (k : Nat) (x : Num) (s : State) :
    measureSample k x s = (x, s.setProc { s.proc with peak := max s.proc.peak |x| }) := by
  unfold measureSample
  rw [numAbs_eq_abs]
  split
  · rw [max_eq_right_of_lt ‹_›]
  · rw [max_eq_left (not_lt.1 ‹_›)]
    rfl

theorem runList_measureSample : ∀ (ins : List Num) (k : Nat) (s : State),
    runList measureSample k ins s =
      (ins, s.setProc { s.proc with peak := ins.foldl (fun m x => max m |x|) s.proc.peak })
  | [], _, _ => rfl
  | x :: ins, k, s => by
    simp only [runList, measureSample_eq, runList_measureSample ins]
    rfl

/-- The window test of MEASURE mode, register by register (R240). -/
theorem measureWindow_eq (s : State) :
    let ends := s.proc.measCount + 1 = s.cfg.measWindow
    measureWindow s = { s with
      proc := { s.proc with
        peak := if ends then 0 else s.proc.peak
        measCount := if ends then 0 else s.proc.measCount + 1 }
      flt := if ends then
          { s.flt with evt := s.flt.evt ++ [.peakReport s.proc.peak], fault := s.flt.fault ||| 0x10 }
        else s.flt } := by
  intro ends
  obtain ⟨hends, h⟩ | ⟨hends, h⟩ := measureWindow_cases s
  · simp only [h, ends, if_pos hends]
    rfl
  · simp only [h, ends, if_neg hends]
    rfl

@[simp] theorem entryCommon_flt (s : State) : (entryCommon s).flt = s.flt := by simp [entryCommon]

@[simp] theorem entryMode_flt (key : ModeKey) (s : State) : (entryMode key s).flt = s.flt := by
  unfold entryMode
  split
  · rfl
  · split <;> rfl
  · rfl
  · rfl

/-- A mode entry emits nothing (R238). -/
theorem enterMode_flt (s : State) : (enterMode s).flt = s.flt := by
  unfold enterMode
  split
  · rfl
  · exact (entryMode_flt _ _).trans (entryCommon_flt s)

/-- Settles O58: the mode entry leaves the parameters and the event log, so the run is a MEASURE run from it. -/
theorem measurePeriod : Obligations.MeasurePeriod := by
  intro s n ins dt h hins hdt hlen hn hmode e peak ends
  have hframe : e.periodFrame = (s.clearDin .cmd).periodFrame := periodFrame_enterMode _
  have hcfg : e.cfg = s.cfg := congrArg PeriodFrame.cfg hframe
  have hpar : e.par = s.par := congrArg PeriodFrame.par hframe
  have hflt : e.flt = s.flt := enterMode_flt _
  have hrun : runMode ins e =
      (ins, measureWindow (e.setProc { e.proc with peak := peak })) := by
    simp only [runMode, hpar, hmode, runMeasure, runList_measureSample]
    rfl
  rw [exec_procPeriod_of_accepted h hins hdt hlen hn (configFailure_measure hmode), periodRun_eq]
  change Host.Outcome.next (loopTiming dt { (runMode ins e).2 with
    cmd := { s.cmd with din := [], dout := s.cmd.dout ++ (runMode ins e).1.map .num } }) = _
  rw [hrun, measureWindow_eq]
  simp only [State.setProc_proc, State.setProc_cfg, State.setProc_flt, hcfg, hflt]
  rfl

/-! ## The DUV path (O60) -/

/-! ### What the stages leave alone -/

/-- Two states agree on configuration, parameters and the registers of the period processor. -/
structure SameProc (s t : State) : Prop where
  cfg : t.cfg = s.cfg
  par : t.par = s.par
  proc : t.proc = s.proc

theorem SameProc.trans {s t u : State} (h : SameProc s t) (h' : SameProc t u) : SameProc s u where
  cfg := h'.cfg.trans h.cfg
  par := h'.par.trans h.par
  proc := h'.proc.trans h.proc

theorem SameProc.refl (s : State) : SameProc s s := ⟨rfl, rfl, rfl⟩

section
variable (s : State)

theorem nextBit_proc : (nextBit interleave s).2.proc = s.proc := by
  have hinter : ∀ t, (interleave t).proc = t.proc := fun t => by
    obtain ⟨-, -, -, -, -, -, -, -, -, hproc, -⟩ := interleave_frame t
    exact hproc
  have hadvance : (iterAdvance interleave s).proc = s.proc := by
    unfold iterAdvance
    split
    · split <;> simp [hinter]
    · rfl
  exact hadvance

theorem pulledState_proc : (pulledState s).proc = s.proc := by
  unfold pulledState modPull
  split
  · split
    · rfl
    · exact nextBit_proc s
  · rfl

/-- The modulator does not write the period processor (R224). -/
theorem modBit_sameProc : SameProc s (modBit s).2 where
  cfg := congrArg PeriodFrame.cfg (periodFrame_modBit s)
  par := State.par_eq_of_periodFrame (periodFrame_modBit s)
  proc := by
    rw [modBit_eq]
    exact pulledState_proc s

theorem firStep_sameProc (f : FirInst) (x : Num) : SameProc s (firStep f x s).2 := by
  constructor <;> simp

theorem iirStep_sameProc (x : Num) : SameProc s (iirStep x s).2 := by
  constructor <;> simp [iirStep]

variable {s} in
/-- A loop leaves alone what each of its iterations does. -/
theorem SameProc.runList {α : Type} {f : Nat → α → State → Num × State}
    (hf : ∀ k x t, SameProc t (f k x t).2) (k : Nat) (xs : List α) :
    SameProc s (runList f k xs s).2 :=
  runList_keeps (P := SameProc s) (fun k x t ht => ht.trans (hf k x t)) xs k s (.refl s)

theorem takeFir_sameProc (f : FirInst) (xs : List Num) : SameProc s (takeFir f xs s).2 :=
  .runList (fun _ x t => firStep_sameProc t f x) _ _

theorem highPass_sameProc (xs : List Num) : SameProc s (highPass xs s).2 := by
  unfold highPass
  split
  · exact .runList (fun _ x t => iirStep_sameProc t x) _ _
  · exact .refl s

theorem inject_sameProc (xs : List Num) : SameProc s (inject xs s).2 := by
  unfold inject
  split
  · exact .runList (f := injectSample) (fun _ _ t => modBit_sameProc t) _ _
  · exact .refl s

end

/-! ### Decimation (R243) -/

/-- The last index of each group of `n`. -/
theorem filter_range_last {n : Nat} (hn : 1 ≤ n) (m : Nat) :
    (List.range (m * n)).filter (fun i => i % n = n - 1) = (List.range m).map fun k => k * n + (n - 1) := by
  induction m with
  | zero => simp
  | succ m ih =>
    have hlast : ∀ i ∈ List.range n,
        ((fun j => decide (j % n = n - 1)) ∘ (m * n + ·)) i = decide (i = n - 1) := fun i hi => by
      simp only [Function.comp_apply, Nat.mul_add_mod_of_lt (List.mem_range.1 hi)]
    have hgroup : (List.range n).filter (fun i => i = n - 1) = [n - 1] := by
      rw [List.filter_eq, List.count_eq_one_of_mem List.nodup_range (List.mem_range.2 (by omega))]
      rfl
    rw [Nat.succ_mul, List.range_add, List.filter_append, ih, List.filter_map, List.filter_congr hlast,
      hgroup, List.range_succ, List.map_append]
    rfl

theorem keepLast_eq {n m : Nat} (hn : 1 ≤ n) {ys : List Num} (hlen : ys.length = m * n) :
    keepLast n ys = (List.range m).map fun k => ys.getD (k * n + (n - 1)) 0 := by
  rw [keepLast, hlen, filter_range_last hn, List.map_map]
  rfl

/-! ### Injection (R245) -/

/-- A loop that does not read its index. -/
theorem runList_index {α : Type} (f : α → State → Num × State) : ∀ (xs : List α) (k l : Nat) (s : State),
    runList (fun _ => f) k xs s = runList (fun _ => f) l xs s
  | [], _, _, _ => rfl
  | x :: xs, k, l, s => by simp only [runList, runList_index f xs (k + 1) (l + 1)]

theorem takeSamples_succ (n : Nat) (s : State) :
    takeSamples (n + 1) s = ((modBit s).1 :: (takeSamples n (modBit s).2).1, (takeSamples n (modBit s).2).2) := by
  simp only [takeSamples, List.replicate_succ, runList]
  rw [runList_index (fun _ => modBit) _ _ 0]

/-- The injection adds to each sample the next one of the modulator (R245). -/
theorem runList_injectSample : ∀ (xs : List Num) (k : Nat) (s : State),
    runList injectSample k xs s =
      (List.zipWith (numAdd s.cfg.num) xs (takeSamples xs.length s).1, (takeSamples xs.length s).2)
  | [], _, _ => rfl
  | x :: xs, k, s => by
    simp only [runList, injectSample, runList_injectSample xs, List.length_cons, takeSamples_succ,
      List.zipWith_cons_cons, (modBit_sameProc s).cfg]

theorem getD_zipWith_of_lt {α : Type} (f : α → α → α) {as bs : List α} {k : Nat} (d : α)
    (ha : k < as.length) (hb : k < bs.length) :
    (List.zipWith f as bs).getD k d = f (as.getD k d) (bs.getD k d) := by
  simp [ha, hb]

/-- The high-pass stage answers one sample for each it takes (R244). -/
theorem highPass_length (xs : List Num) (s : State) : (highPass xs s).1.length = xs.length := by
  unfold highPass
  split
  · exact runList_length _ _ _ _
  · rfl

/-- The injection stage, sample by sample (R245). -/
theorem inject_getD {xs : List Num} {s : State} {m : Nat} (hlen : xs.length = m) :
    let bits := if s.par.telemEn then takeSamples m s else ([], s)
    (inject xs s).2 = bits.2 ∧ ∀ k, k < m → (inject xs s).1.getD k 0 =
      if s.par.telemEn then rnd s.cfg.num (xs.getD k 0 + bits.1.getD k 0) else xs.getD k 0 := by
  subst hlen
  unfold inject
  cases s.par.telemEn with
  | true =>
    have hsamples : (takeSamples xs.length s).1.length = xs.length :=
      (runList_length _ _ _ _).trans List.length_replicate
    simp only [if_true, runList_injectSample]
    exact ⟨trivial, fun k hk => getD_zipWith_of_lt _ _ hk (by rwa [hsamples])⟩
  | false => exact ⟨rfl, fun _ _ => rfl⟩

/-! ### Interpolation and clipping (R246, R247, R249) -/

theorem takeFir_cons (f : FirInst) (x : Num) (xs : List Num) (s : State) :
    takeFir f (x :: xs) s =
      ((firStep f x s).1 :: (takeFir f xs (firStep f x s).2).1, (takeFir f xs (firStep f x s).2).2) := by
  simp only [takeFir, runList]
  rw [runList_index (firStep f) _ _ 0]

/-- The filters do not read whether a clip is logged. -/
theorem firStep_logClip (f : FirInst) (x : Num) (s : State) (i : Nat) :
    firStep f x (s.logClip i) = ((firStep f x s).1, (firStep f x s).2.logClip i) := by cases f <;> rfl

theorem takeFir_logClip (f : FirInst) (i : Nat) : ∀ (xs : List Num) (s : State),
    takeFir f xs (s.logClip i) = ((takeFir f xs s).1, (takeFir f xs s).2.logClip i)
  | [], _ => rfl
  | x :: xs, s => by simp only [takeFir_cons, firStep_logClip, takeFir_logClip f i xs]

section
variable {s : State} {v : Num}

theorem interpSample_of_quiet (k : Nat)
    (h : s.proc.clipLogged = true ∨ ¬ s.cfg.clipLimit < |(firStep .int v s).1|) :
    interpSample k v s = firStep .int v s := by
  have hsame := firStep_sameProc s .int v
  rw [← hsame.proc, ← hsame.cfg] at h
  simp only [interpSample, clipCheck_of_quiet k h]

theorem interpSample_of_clip (k : Nat) (hclip : s.cfg.clipLimit < |(firStep .int v s).1|)
    (hlog : s.proc.clipLogged = false) :
    interpSample k v s = ((firStep .int v s).1, (firStep .int v s).2.logClip k) := by
  have hsame := firStep_sameProc s .int v
  rw [← hsame.cfg] at hclip
  rw [← hsame.proc] at hlog
  simp only [interpSample, clipCheck_of_clip k hclip hlog]

end

/-- An interpolation that logs no clip is the filter alone. -/
theorem runList_interpSample_of_quiet : ∀ (vs : List Num) (k : Nat) (s : State),
    (s.proc.clipLogged = true ∨
      ∀ j, j < vs.length → ¬ s.cfg.clipLimit < |(takeFir .int vs s).1.getD j 0|) →
    runList interpSample k vs s = takeFir .int vs s
  | [], _, _, _ => rfl
  | v :: vs, k, s, h => by
    have hsame := firStep_sameProc s .int v
    rw [takeFir_cons] at h ⊢
    have hhead : interpSample k v s = firStep .int v s :=
      interpSample_of_quiet k (h.imp_right fun hq => hq 0 (Nat.succ_pos _))
    have hrest := runList_interpSample_of_quiet vs (k + 1) (firStep .int v s).2 <| by
      rw [hsame.proc, hsame.cfg]
      exact h.imp_right fun hq j hj => hq (j + 1) (Nat.succ_lt_succ hj)
    simp only [runList, hhead, hrest]

/-- An interpolation whose first clip is the sample `j` is the filter, with that clip logged. -/
theorem runList_interpSample_of_clip : ∀ (vs : List Num) (k j : Nat) (s : State),
    s.proc.clipLogged = false → j < vs.length →
    s.cfg.clipLimit < |(takeFir .int vs s).1.getD j 0| →
    (∀ i, i < j → ¬ s.cfg.clipLimit < |(takeFir .int vs s).1.getD i 0|) →
    runList interpSample k vs s = ((takeFir .int vs s).1, (takeFir .int vs s).2.logClip (k + j))
  | [], _, _, _, _, hj, _, _ => absurd hj (Nat.not_lt_zero _)
  | v :: vs, k, 0, s, hlog, _, hclip, _ => by
    rw [takeFir_cons] at hclip ⊢
    simp only [runList, interpSample_of_clip k hclip hlog]
    rw [runList_interpSample_of_quiet vs _ _ (.inl rfl), takeFir_logClip]
    rfl
  | v :: vs, k, j + 1, s, hlog, hj, hclip, hfirst => by
    have hsame := firStep_sameProc s .int v
    rw [takeFir_cons] at hclip hfirst ⊢
    have hhead : interpSample k v s = firStep .int v s :=
      interpSample_of_quiet k (.inr (hfirst 0 (Nat.succ_pos _)))
    have hrest := runList_interpSample_of_clip vs (k + 1) j (firStep .int v s).2
      (by rw [hsame.proc, hlog]) (Nat.lt_of_succ_lt_succ hj) (by rwa [hsame.cfg])
      (by rw [hsame.cfg]; exact fun i hi => hfirst (i + 1) (Nat.succ_lt_succ hi))
    simp only [runList, hhead, hrest, Nat.add_assoc, Nat.add_comm 1]

/-- Settles O60: stage by stage; the interpolation logs the first clip, if there is one to log. -/
theorem duvAudioPath : Obligations.DuvAudioPath := by
  intro s ins hmode hN hlen hmod N M r dec kept passed bits sent stuffed out clips
  have hlenM : s.par.periodLen = M * N := (Nat.div_mul_cancel (Nat.dvd_of_mod_eq_zero hmod)).symm
  have sameDec : SameProc s dec.2 := takeFir_sameProc _ _ _
  have hdec : decimate ins s = (kept, dec.2) := by
    have hkept : keepLast N dec.1 = kept :=
      keepLast_eq hN ((runList_length _ _ _ _).trans (hlen.trans hlenM))
    exact Prod.ext hkept rfl
  have hpassed : highPass kept dec.2 = passed := by
    unfold highPass
    rw [sameDec.par]
    rfl
  have samePassed : SameProc s passed.2 := sameDec.trans (hpassed ▸ highPass_sameProc _ _)
  have hpassedLen : passed.1.length = M := by
    rw [← hpassed, highPass_length, List.length_map, List.length_range]
  obtain ⟨hbits, hsent⟩ : (inject passed.1 passed.2).2 = bits.2 ∧
      ∀ k, k < M → (inject passed.1 passed.2).1.getD k 0 = sent k := by
    have hinject := inject_getD (s := passed.2) hpassedLen
    rw [samePassed.par, samePassed.cfg] at hinject
    exact hinject
  have sameBits : SameProc s bits.2 := samePassed.trans (hbits ▸ inject_sameProc _ _)
  have hstuffed : zeroStuff s.cfg.num N s.par.periodLen (inject passed.1 passed.2).1 = stuffed := by
    refine List.map_congr_left fun j hj => ?_
    have hk : j / N < M := Nat.div_lt_of_lt_mul (by rw [Nat.mul_comm, ← hlenM]; exact List.mem_range.1 hj)
    rw [hsent _ hk]
    rfl
  have hrun : runMode ins s = runList interpSample 0 stuffed bits.2 := by
    simp only [runMode, hmode, runDuv, hdec, hpassed, interpolate, hbits, sameBits.cfg, sameBits.par]
    rw [hstuffed]
  have hlenStuffed : stuffed.length = s.par.periodLen := by simp [stuffed]
  rw [hrun]
  refine ⟨fun h => ?_, fun j hlog hj hclip hfirst => ?_⟩
  · refine runList_interpSample_of_quiet stuffed 0 bits.2 ?_
    rw [sameBits.proc, sameBits.cfg, hlenStuffed]
    exact h
  · rw [runList_interpSample_of_clip stuffed 0 j bits.2 (by rw [sameBits.proc, hlog])
      (by rwa [hlenStuffed]) (by rw [sameBits.cfg]; exact hclip) (by rw [sameBits.cfg]; exact hfirst),
      Nat.zero_add]
    rfl

end Sys2Proof.Machine
end
